-- ==== Sys2Proof/Word.lean ====
section
/-! DEFINITION. The word types of the block. -/

namespace Sys2Proof

/-- A byte of the stream or of the frame buffer (R6: 8 bits, bit 7 the most significant). -/
abbrev Byte := BitVec 8

/-- The width of `len` and `tgt` (R5 `CNT_BITS`, R12, R13), and of `REC.int_temp` (R20). -/
abbrev Cnt := BitVec 9

/-- A two-byte field (R20). -/
abbrev Half := BitVec 16

end Sys2Proof
end

