-- ==== Sys2Proof/Config.lean ====
section
/-! DEFINITION. What the spec leaves OPEN: the type of the two labels and the host's constants. -/

namespace Sys2Proof

/-- The type of `DEV_NAME` and `TEMP_LABEL`, OPEN in the spec (R19, D15, U11). DESIGN CHOICE: byte
strings; the block copies labels and never looks into them (log entry 7). -/
abbrev Label := List Byte

namespace Config

/-! The OPEN host parameters of D18. None has a body, so no proof knows a value of it; the block reads
none of them (R73, R150, R151). -/

/-- `POLL_REQUEST_BYTES` (R73). -/
opaque pollRequestBytes : List Byte
/-- `LOAD_ON_BYTES` (R73). -/
opaque loadOnBytes : List Byte
/-- `LOAD_OFF_BYTES` (R73). -/
opaque loadOffBytes : List Byte
/-- `CHUNK_MAX`, the host's bound on one read (R150). -/
opaque chunkMax : Nat
/-- `PROBE_READ_MAX`, the size of the exploratory read (R151). -/
opaque probeReadMax : Nat
/-- `BACKOFF_DELAY`, in seconds (R151). -/
opaque backoffDelay : Rat
/-- `POLLTIMER_INIT`, in seconds (R150, R180). -/
opaque pollTimerInit : Rat
/-- `PROBE_BYTES_FED`: whether the bytes of the successful exploratory read reach the block (R151). -/
opaque probeBytesFed : Bool

end Config
end Sys2Proof
end

