-- ==== Sys2Proof/Syntax.lean ====
section
/-! DEFINITION. The operations of spec/opcode_table.json, the input events and the selector words. -/

namespace Sys2Proof

/-- The input events (R9): the whole of what the host can do to the block, one at a time (R140). -/
inductive Event where
  | byte (c : Byte)
  | reset
  | registerSink
  | setLabels (name label : Label)
  deriving DecidableEq, Repr

/-- The twelve record registers (R20). -/
inductive Field where
  | chgMode | pvVolt | batVolt | chgCur | loadVolt | loadCur | chgPower | loadPower
  | extTemp | intTemp | soc | co2Gram
  deriving DecidableEq, Repr

/-- The four field formats (R66). -/
inductive Layout where
  | u16le | u16leDiv10 | u8 | s8t200
  deriving DecidableEq, Repr

/-- The operation map (R75), one constructor per row. An operation's operands are those its selector
word carries; what it takes from the state it reads there. -/
inductive Instr where
  /-- A_START (R93); its byte is the sentinel. -/
  | aStart
  /-- A_DISCARD (R92). -/
  | aDiscard (c : Byte)
  /-- A_HEAD (R94). -/
  | aHead (c : Byte)
  /-- A_LATCH (R95). -/
  | aLatch (c : Byte)
  /-- A_BODY (R96). -/
  | aBody (c : Byte)
  /-- A_COMPLETE (R97). -/
  | aComplete (c : Byte)
  /-- D_TELEM (R113). -/
  | dTelem
  /-- D_SHORT (R114). -/
  | dShort
  /-- D_DROP (R112), with the three parts of `fsel` (R68). -/
  | dDrop (short : Bool) (src typ : Byte)
  /-- X_CHG_MODE (R116). -/
  | xChgMode
  /-- X_PV_VOLT (R117). -/
  | xPvVolt
  /-- X_BAT_VOLT (R118). -/
  | xBatVolt
  /-- X_CHG_CUR (R119). -/
  | xChgCur
  /-- X_LOAD_VOLT (R120). -/
  | xLoadVolt
  /-- X_LOAD_CUR (R121). -/
  | xLoadCur
  /-- X_CHG_POWER (R122). -/
  | xChgPower
  /-- X_LOAD_POWER (R123). -/
  | xLoadPower
  /-- X_EXT_TEMP (R124). -/
  | xExtTemp
  /-- X_INT_TEMP (R125). -/
  | xIntTemp
  /-- X_SOC (R126). -/
  | xSoc
  /-- X_CO2_GRAM (R127). -/
  | xCo2Gram
  /-- X_LABELS (R128). -/
  | xLabels
  /-- D_NOTIFY (R130). -/
  | dNotify
  /-- D_DISCARD (R131). -/
  | dDiscard
  /-- H_RESET (R141). -/
  | hReset
  /-- H_REGISTER_SINK (R142). -/
  | hRegisterSink
  /-- H_SET_LABELS (R143). -/
  | hSetLabels (name label : Label)
  /-- H_BYTE (R144). -/
  | hByte (c : Byte)
  /-- H_FEED (R145), a macro over H_BYTE. -/
  | hFeed (chunk : List Byte)
  deriving DecidableEq, Repr

/-- A selector word with its format (R75, R76). -/
inductive Code where
  /-- `sel` of R67. -/
  | byte (sel : BitVec 11)
  /-- `fsel` of R68. -/
  | frame (fsel : BitVec 17)
  /-- A FIELD row: the `fsel` under which it runs and the row's `index`, `none` for the row of layout
  `CONFIG` (R76). DESIGN CHOICE: the index tells the thirteen rows apart (log entry 14). -/
  | field (fsel : BitVec 17) (index : Option Nat)
  /-- The bit `sink_en`. -/
  | deliver (en : BitVec 1)
  /-- A HOST row is selected by the kind of the event (R75). -/
  | host (e : Event)
  deriving DecidableEq, Repr

end Sys2Proof
end

