-- ==== Sys2Proof/Machine/Params.lean ====
section
/-! DEFINITION. The implementation parameters of R5: every literal of the source by its name there. -/

namespace Sys2Proof.Machine

/-- `SENTINEL` (R5, R62). -/
def sentinel : Byte := 0xAA
/-- `HDR_BYTES`: bytes accumulated before the target length is known. -/
def hdrBytes : Nat := 5
/-- `LEN_INDEX`: the index of the length byte. -/
def lenIndex : Nat := 4
/-- `LEN_BIAS` (R64). -/
def lenBias : Cnt := 6
/-- `BUF_BYTES`: the frame buffer's size. -/
def bufBytes : Nat := 261
/-- `SRC_INDEX`. -/
def srcIndex : Nat := 2
/-- `SRC_TELEM`. -/
def srcTelem : Byte := 3
/-- `TYP_INDEX`. -/
def typIndex : Nat := 3
/-- `TYP_TELEM`. -/
def typTelem : Byte := 0
/-- `REC_MIN_LEN`: the least frame length the decoder can unpack. -/
def recMinLen : Nat := 35
/-- `INT_TEMP_THRESHOLD` (R125). -/
def intTempThreshold : Nat := 200
/-- `SCALE_DIV` (R115). -/
def scaleDiv : Nat := 10
/-- `POLL_INTERVAL`, in seconds; host side only. -/
def pollInterval : Rat := 1

/-- The first `data` index of a field (R65). -/
def fieldIndex : Field → Nat
  | .chgMode => 7
  | .pvVolt => 9
  | .batVolt => 11
  | .chgCur => 13
  | .loadVolt => 17
  | .loadCur => 19
  | .chgPower => 21
  | .loadPower => 23
  | .extTemp => 25
  | .intTemp => 27
  | .soc => 29
  | .co2Gram => 33

/-- The format of a field (R65). -/
def fieldLayout : Field → Layout
  | .chgMode => .u16le
  | .pvVolt => .u16leDiv10
  | .batVolt => .u16leDiv10
  | .chgCur => .u16leDiv10
  | .loadVolt => .u16leDiv10
  | .loadCur => .u16leDiv10
  | .chgPower => .u16le
  | .loadPower => .u16le
  | .extTemp => .u8
  | .intTemp => .s8t200
  | .soc => .u8
  | .co2Gram => .u16le

/-- How many frame bytes a format reads (R66, `bytes` of R76). -/
def layoutBytes : Layout → Nat
  | .u16le => 2
  | .u16leDiv10 => 2
  | .u8 => 1
  | .s8t200 => 1

/-- The divisor of a format (`scale` of R76). -/
def layoutScale : Layout → Nat
  | .u16le => 1
  | .u16leDiv10 => scaleDiv
  | .u8 => 1
  | .s8t200 => 1

/-- The twelve fields in the register order of R20. -/
def allFields : List Field :=
  [.chgMode, .pvVolt, .batVolt, .chgCur, .loadVolt, .loadCur, .chgPower, .loadPower, .extTemp,
    .intTemp, .soc, .co2Gram]

end Sys2Proof.Machine
end

