-- ==== Sys2Proof/WellFormed.lean ====
section
/-! DEFINITION. When an operation's operands are ones its selector admits. -/

namespace Sys2Proof

/-- A_DISCARD is not selected by the sentinel, which A_START takes (R92, R93); D_DROP is not selected
by the telemetry discriminators, which D_TELEM and D_SHORT take (R112). -/
def Instr.wellFormed : Instr → Bool
  | .aDiscard c => c != Machine.sentinel
  | .dDrop _ src typ => !(src == Machine.srcTelem && typ == Machine.typTelem)
  | .aStart => true
  | .aHead _ => true
  | .aLatch _ => true
  | .aBody _ => true
  | .aComplete _ => true
  | .dTelem => true
  | .dShort => true
  | .xChgMode => true
  | .xPvVolt => true
  | .xBatVolt => true
  | .xChgCur => true
  | .xLoadVolt => true
  | .xLoadCur => true
  | .xChgPower => true
  | .xLoadPower => true
  | .xExtTemp => true
  | .xIntTemp => true
  | .xSoc => true
  | .xCo2Gram => true
  | .xLabels => true
  | .dNotify => true
  | .dDiscard => true
  | .hReset => true
  | .hRegisterSink => true
  | .hSetLabels _ _ => true
  | .hByte _ => true
  | .hFeed _ => true

end Sys2Proof
end

