-- ==== Sys2Proof/Decode.lean ====
section
/-! DEFINITION. From selector words to operations (the operation map, R75, R76) and back. -/

namespace Sys2Proof

/-- A row of the operation map: it takes a selector whose bits under `mask` are `value` (R75). -/
structure Row (w : Nat) (Op : Type) where
  mask : BitVec w
  value : BitVec w
  op : Op

/-- The six BYTE operations. -/
inductive ByteOp where
  | start | discard | head | latch | body | complete
  deriving DecidableEq, Repr

/-- The three FRAME operations. -/
inductive FrameOp where
  | telem | short | drop
  deriving DecidableEq, Repr

/-- The two DELIVER operations. -/
inductive DeliverOp where
  | notify | discard
  deriving DecidableEq, Repr

/-- The four selectable HOST operations. -/
inductive HostOp where
  | reset | registerSink | setLabels | byte
  deriving DecidableEq, Repr

/-- Why a selector word is no operation. -/
inductive Reject where
  /-- A FIELD row under an `fsel` other than D_TELEM's: the field operations run only when D_TELEM does (R75). -/
  | fieldNotSelected
  /-- No field starts at this frame index (R65). -/
  | noFieldAt (index : Nat)
  deriving DecidableEq, Repr

/-- What a selector word decodes to. -/
inductive Decoded where
  | instr (i : Instr)
  | reject (why : Reject)
  deriving DecidableEq, Repr

/-- Rows are tried top to bottom; `last` is the operation of the format's last row, which matches
everything that is left (R75). -/
def firstMatch {w : Nat} {Op : Type} (rows : List (Row w Op)) (last : Op) (sel : BitVec w) : Op :=
  match rows with
  | [] => last
  | r :: rest => if sel &&& r.mask = r.value then r.op else firstMatch rest last sel

/-- The BYTE rows but the last (R75). -/
def byteRows : List (Row 11 ByteOp) :=
  [⟨0x4FF, 0x0AA, .start⟩, ⟨0x400, 0x000, .discard⟩, ⟨0x700, 0x400, .head⟩, ⟨0x700, 0x500, .latch⟩,
    ⟨0x700, 0x600, .body⟩]

/-- The BYTE rows in full; the last is A_COMPLETE, 0x700 under 0x700. -/
def selectByte (sel : BitVec 11) : ByteOp := firstMatch byteRows .complete sel

/-- The FRAME rows but the last (R75). -/
def frameRows : List (Row 17 FrameOp) :=
  [⟨0x1FFFF, 0x00300, .telem⟩, ⟨0x1FFFF, 0x10300, .short⟩]

/-- The FRAME rows in full; the last is D_DROP, which matches every `fsel`. -/
def selectFrame (fsel : BitVec 17) : FrameOp := firstMatch frameRows .drop fsel

/-- The DELIVER row but the last (R75). -/
def deliverRows : List (Row 1 DeliverOp) := [⟨1, 1, .notify⟩]

/-- The DELIVER rows in full, over the bit `sink_en`. -/
def selectDeliver (en : BitVec 1) : DeliverOp := firstMatch deliverRows .discard en

/-- The HOST rows before H_BYTE (R75). -/
def hostRows : List (Row 2 HostOp) := [⟨3, 1, .reset⟩, ⟨3, 2, .registerSink⟩, ⟨3, 3, .setLabels⟩]

/-- The HOST rows over the event-kind code `evk`; H_FEED, listed after H_BYTE, is never selected. -/
def selectHost (evk : BitVec 2) : HostOp := firstMatch hostRows .byte evk

/-- The code of an event's kind: 0 `Byte`, 1 `Reset`, 2 `RegisterSink`, 3 `SetLabels` (R75). -/
def eventKind : Event → BitVec 2
  | .byte _ => 0
  | .reset => 1
  | .registerSink => 2
  | .setLabels _ _ => 3

/-- The event of a kind, given the operands an event of that kind would carry. -/
def eventOfKind (evk : BitVec 2) (c : Byte) (name label : Label) : Event :=
  match selectHost evk with
  | .reset => .reset
  | .registerSink => .registerSink
  | .setLabels => .setLabels name label
  | .byte => .byte c

/-- The packing of `sel` (R67): bit 10 `st`, bits 9..8 `pos`, bits 7..0 `c`. -/
def packSel (st : BitVec 1) (pos : BitVec 2) (c : Byte) : BitVec 11 := st ++ pos ++ c

/-- The packing of `fsel` (R68): bit 16 the short mark, bits 15..8 `data[2]`, bits 7..0 `data[3]`. -/
def packFsel (short : Bool) (src typ : Byte) : BitVec 17 := BitVec.ofBool short ++ src ++ typ

/-- The `fsel` of D_TELEM, under which the FIELD rows run (R75). -/
def telemFsel : BitVec 17 := 0x00300

/-- A BYTE operation on its byte `sel[7:0]`. -/
def byteInstr (op : ByteOp) (c : Byte) : Instr :=
  match op with
  | .start => .aStart
  | .discard => .aDiscard c
  | .head => .aHead c
  | .latch => .aLatch c
  | .body => .aBody c
  | .complete => .aComplete c

/-- A FRAME operation with the parts of its `fsel`. -/
def frameInstr (op : FrameOp) (fsel : BitVec 17) : Instr :=
  match op with
  | .telem => .dTelem
  | .short => .dShort
  | .drop => .dDrop (fsel.getLsbD 16) (fsel.extractLsb' 8 8) (fsel.extractLsb' 0 8)

/-- A DELIVER operation. -/
def deliverInstr : DeliverOp → Instr
  | .notify => .dNotify
  | .discard => .dDiscard

/-- The field operation of a record register (R75). -/
def fieldInstr : Field → Instr
  | .chgMode => .xChgMode
  | .pvVolt => .xPvVolt
  | .batVolt => .xBatVolt
  | .chgCur => .xChgCur
  | .loadVolt => .xLoadVolt
  | .loadCur => .xLoadCur
  | .chgPower => .xChgPower
  | .loadPower => .xLoadPower
  | .extTemp => .xExtTemp
  | .intTemp => .xIntTemp
  | .soc => .xSoc
  | .co2Gram => .xCo2Gram

/-- The field whose row has this `index` (R65). -/
def fieldAt (index : Nat) : Option Field :=
  Machine.allFields.find? fun f => Machine.fieldIndex f == index

/-- A HOST operation from its event (R75: the kind is symbolic, a constructor of the event type). -/
def decodeEvent : Event → Instr
  | .byte c => .hByte c
  | .reset => .hReset
  | .registerSink => .hRegisterSink
  | .setLabels name label => .hSetLabels name label

/-- The operation a selector word selects. -/
def decode : Code → Decoded
  | .byte sel => .instr (byteInstr (selectByte sel) (sel.extractLsb' 0 8))
  | .frame fsel => .instr (frameInstr (selectFrame fsel) fsel)
  | .field fsel index =>
    if fsel = telemFsel then
      match index with
      | none => .instr .xLabels
      | some k =>
        match fieldAt k with
        | some f => .instr (fieldInstr f)
        | none => .reject (.noFieldAt k)
    else .reject .fieldNotSelected
  | .deliver en => .instr (deliverInstr (selectDeliver en))
  | .host e => .instr (decodeEvent e)

/-- The selector word of a FIELD row (R76). -/
def fieldCode (f : Field) : Code := .field telemFsel (some (Machine.fieldIndex f))

/-- The selector words of an operation, from the map of R75. H_FEED is a macro: it stands for the H_BYTE
words of its chunk (R145). -/
def encode : Instr → List Code
  | .aStart => [.byte (packSel 0 0 Machine.sentinel)]
  | .aDiscard c => [.byte (packSel 0 0 c)]
  | .aHead c => [.byte (packSel 1 0 c)]
  | .aLatch c => [.byte (packSel 1 1 c)]
  | .aBody c => [.byte (packSel 1 2 c)]
  | .aComplete c => [.byte (packSel 1 3 c)]
  | .dTelem => [.frame (packFsel false Machine.srcTelem Machine.typTelem)]
  | .dShort => [.frame (packFsel true Machine.srcTelem Machine.typTelem)]
  | .dDrop short src typ => [.frame (packFsel short src typ)]
  | .xChgMode => [fieldCode .chgMode]
  | .xPvVolt => [fieldCode .pvVolt]
  | .xBatVolt => [fieldCode .batVolt]
  | .xChgCur => [fieldCode .chgCur]
  | .xLoadVolt => [fieldCode .loadVolt]
  | .xLoadCur => [fieldCode .loadCur]
  | .xChgPower => [fieldCode .chgPower]
  | .xLoadPower => [fieldCode .loadPower]
  | .xExtTemp => [fieldCode .extTemp]
  | .xIntTemp => [fieldCode .intTemp]
  | .xSoc => [fieldCode .soc]
  | .xCo2Gram => [fieldCode .co2Gram]
  | .xLabels => [.field telemFsel none]
  | .dNotify => [.deliver 1]
  | .dDiscard => [.deliver 0]
  | .hReset => [.host .reset]
  | .hRegisterSink => [.host .registerSink]
  | .hSetLabels name label => [.host (.setLabels name label)]
  | .hByte c => [.host (.byte c)]
  | .hFeed chunk => chunk.map fun c => .host (.byte c)

/-- The operations an operation's words stand for: itself, but for the macro H_FEED (R145). -/
def Instr.expand : Instr → List Instr
  | .hFeed chunk => chunk.map .hByte
  | i => [i]

/-- The operation selected, if the word selects one. -/
def Decoded.instr? : Decoded → Option Instr
  | .instr i => some i
  | .reject _ => none

/-- A word of the opcode table. The table's formats have selectors of 1 bit (DELIVER), 2 bits (HOST),
11 bits (BYTE) and 17 bits (FRAME, and FIELD as D_TELEM); a width tells the format, 8 bits are taken as a
HOST word, the only one the host presents, and a row that fixes no bit is D_DROP (DESIGN CHOICE, log entry
12). The operands an event carries beside its kind are zero bits: the byte 0, empty labels. -/
def decodeTableWord (nbits w : Nat) : Option Instr :=
  if nbits = 0 then (decode (.frame (BitVec.ofNat 17 w))).instr?
  else if nbits = 1 then (decode (.deliver (BitVec.ofNat 1 w))).instr?
  else if nbits ≤ 8 then (decode (.host (eventOfKind (BitVec.ofNat 2 w) 0 [] []))).instr?
  else if nbits ≤ 16 then (decode (.byte (BitVec.ofNat 11 w))).instr?
  else if nbits ≤ 24 then (decode (.frame (BitVec.ofNat 17 w))).instr?
  else none

end Sys2Proof
end

