-- ==== Sys2Proof/Machine/State.lean ====
section
/-! DEFINITION. The state of the block (R10), what it emits (R9), and how a step can stop. -/

namespace Sys2Proof.Machine

/-- `st` (R11). -/
inductive AsmState where
  | awaitingStart
  | accumulatingFrame
  deriving DecidableEq, Repr

/-- The record registers `REC` (R20): the raw values; the five divided fields hold tenths. -/
structure RegSet where
  chgMode : Half
  pvVolt : Half
  batVolt : Half
  chgCur : Half
  loadVolt : Half
  loadCur : Half
  chgPower : Half
  loadPower : Half
  extTemp : Byte
  /-- Nine bits, two's complement, -56..199. -/
  intTemp : Cnt
  soc : Byte
  co2Gram : Half
  deriving DecidableEq, Repr

/-- A TelemetryRecord: the twelve numeric fields and the two labels (R110, R128). -/
structure Record where
  regs : RegSet
  devName : Label
  tempLabel : Label
  deriving DecidableEq, Repr

/-- The fault codes that can be raised: only X5 (R160). -/
inductive FaultCode where
  | shortTelemetryFrame
  deriving DecidableEq, Repr

/-- The output events (R9). -/
inductive OutEvent where
  /-- A frame was completed; the sentinel is not part of it (R105). -/
  | frame (bytes : List Byte)
  /-- The consumer notification, carrying the record by value (R130). -/
  | notify (r : Record)
  /-- `Fault(code, n)` with the frame length `n` (R165). -/
  | fault (code : FaultCode) (n : Cnt)
  deriving DecidableEq, Repr

/-- The frame buffer: the indices written, with their bytes. -/
abbrev Memory := List Host.Cell

/-- The record `r` that `Decode` builds (R110), field by field; `none` while a field is not yet there. -/
structure Draft where
  chgMode : Option Half := none
  pvVolt : Option Half := none
  batVolt : Option Half := none
  chgCur : Option Half := none
  loadVolt : Option Half := none
  loadCur : Option Half := none
  chgPower : Option Half := none
  loadPower : Option Half := none
  extTemp : Option Byte := none
  intTemp : Option Cnt := none
  soc : Option Byte := none
  co2Gram : Option Half := none
  devName : Option Label := none
  tempLabel : Option Label := none
  deriving DecidableEq, Repr

/-- The state: R10's table, then the model's own fields. -/
structure State where
  /-- `st` (R11). -/
  st : AsmState
  /-- `len` (R12). -/
  len : Cnt
  /-- `tgt`, with `tgt_valid` as its presence (R13). -/
  tgt : Option Cnt
  /-- `buf[0..260]` (R14). -/
  buf : Memory
  /-- `sink_en` (R16). -/
  sinkEn : Bool
  /-- `fault_short` (R17). -/
  faultShort : Bool
  /-- `REC`, with `rec_valid` as its presence (R18, R20). -/
  regs : Option RegSet
  /-- `DEV_NAME` (R19). -/
  devName : Option Label
  /-- `TEMP_LABEL` (R19). -/
  tempLabel : Option Label
  /-- The strobe `frame_done` with `frame_len` (R105): the length of the frame the decoder is working on.
  `none` between steps (log entry 3). -/
  frameLen : Option Cnt
  /-- The record the decoder is building (R110). Empty between steps (log entry 3). -/
  draft : Draft
  /-- The input events still to come, the next one first (log entry 1). -/
  input : List Event
  /-- The events emitted so far, in order (log entry 1). -/
  output : List OutEvent
  deriving DecidableEq, Repr

/-- How a step can stop with a fault. The block's own fault, ShortTelemetryFrame, is none of these: it
stops nothing (R165). None of these arises from a state that meets the invariants. All are safe: the
model stops where the spec gives no value. -/
inductive Fault where
  /-- Raised by a write at an index the buffer does not have (R8: `0 <= i <= 260`). Safe. -/
  | bufferIndex
  /-- Raised by a decoder operation that needs the completed frame when there is none. Safe. -/
  | noFrame
  /-- Raised by a read at an index past the completed frame (R45). Safe. -/
  | frameIndex
  /-- Raised by a read of a byte below the frame's length that holds no value. Safe. -/
  | byteWithoutValue
  /-- Raised by D_NOTIFY when the record lacks a numeric field. Safe. -/
  | recordIncomplete
  deriving DecidableEq, Repr

/-- How a step can be refused. -/
inductive Refusal where
  /-- The operation has no meaning yet. Safe. -/
  | notModelled (mnemonic : String)
  /-- Raised by D_NOTIFY when the labels were never set: the spec has the run refused (R196 b). Safe. -/
  | labelsNotSet
  /-- Raised by the consumer's read of `REC` while `rec_valid` is 0 (R18); by no step. Safe. -/
  | recordNotValid
  deriving DecidableEq, Repr

/-- The state after reset (R26, R190). "No value" is `none` or nothing listed, as R26 asks. The last four
fields are the model's own (log entries 1, 3). -/
def State.reset : State where
  st := .awaitingStart
  len := 0
  tgt := none
  buf := []
  sinkEn := false
  faultShort := false
  regs := none
  devName := none
  tempLabel := none
  frameLen := none
  draft := {}
  input := []
  output := []

end Sys2Proof.Machine
end

