-- ==== Sys2Proof/Machine/Operands.lean ====
section
/-! DEFINITION. The operand forms: target length (R64), the four field formats (R66), and the value a
record field stands for (R20, R115). -/

namespace Sys2Proof.Machine

/-- `zext_9` (R8). -/
def zext9 (c : Byte) : Cnt := c.setWidth 9

/-- `6 + zext_9(L)` (R64). -/
def targetLen (c : Byte) : Cnt := lenBias + zext9 c

/-- `lo + 256 * hi`, the concatenation `hi ‖ lo` (R42, R72). -/
def u16le (lo hi : Byte) : Half := hi ++ lo

/-- S8T200 (R66, R125): `raw - 256` from the threshold on, else `raw`, in nine bits signed. -/
def s8t200 (raw : Byte) : Cnt :=
  if intTempThreshold ≤ raw.toNat then zext9 raw - 256 else zext9 raw

/-- The number a record register holds (R20): unsigned, but for `int_temp`, which is signed. -/
def regRaw (r : RegSet) : Field → Int
  | .chgMode => r.chgMode.toNat
  | .pvVolt => r.pvVolt.toNat
  | .batVolt => r.batVolt.toNat
  | .chgCur => r.chgCur.toNat
  | .loadVolt => r.loadVolt.toNat
  | .loadCur => r.loadCur.toNat
  | .chgPower => r.chgPower.toNat
  | .loadPower => r.loadPower.toNat
  | .extTemp => r.extTemp.toNat
  | .intTemp => r.intTemp.toInt
  | .soc => r.soc.toNat
  | .co2Gram => r.co2Gram.toNat

/-- The value of a record field: the exact rational `raw / scale` (R115). -/
def fieldValue (r : RegSet) (f : Field) : Rat := (regRaw r f : Rat) / (layoutScale (fieldLayout f) : Rat)

end Sys2Proof.Machine
end

