-- ==== Sys2Proof/Machine/Ops.lean ====
section
/-! DEFINITION. The named operations over state, buffer and events that the meanings are built from. -/

namespace Sys2Proof.Machine

/-- What a meaning answers. -/
abbrev Result := Host.Outcome State Fault Refusal

/-- One operation after another within a step; a stop ends the step. -/
def andThen (o : Result) (f : State → Result) : Result :=
  match o with
  | .next s => f s
  | .fault r => .fault r
  | .refused r => .refused r

/-! Writes of one state element (`s <- v`, R8). -/

def State.setSt (s : State) (v : AsmState) : State := { s with st := v }
def State.setLen (s : State) (v : Cnt) : State := { s with len := v }
def State.setTgt (s : State) (v : Option Cnt) : State := { s with tgt := v }
def State.setBuf (s : State) (v : Memory) : State := { s with buf := v }
def State.setSinkEn (s : State) (v : Bool) : State := { s with sinkEn := v }
def State.setFaultShort (s : State) (v : Bool) : State := { s with faultShort := v }
def State.setRegs (s : State) (v : Option RegSet) : State := { s with regs := v }
def State.setDevName (s : State) (v : Option Label) : State := { s with devName := v }
def State.setTempLabel (s : State) (v : Option Label) : State := { s with tempLabel := v }
def State.setFrameLen (s : State) (v : Option Cnt) : State := { s with frameLen := v }
def State.setDraft (s : State) (v : Draft) : State := { s with draft := v }
def State.setInput (s : State) (v : List Event) : State := { s with input := v }
def State.setOutput (s : State) (v : List OutEvent) : State := { s with output := v }

/-- `emit E` (R8). -/
def State.emit (s : State) (e : OutEvent) : State := s.setOutput (s.output ++ [e])

/-! The frame buffer (R40). -/

/-- Addresses strictly rising from `lo`, all of them indices of the buffer. -/
def Memory.risingFrom (lo : Nat) : Memory → Bool
  | [] => true
  | (a, _) :: m => decide (lo ≤ a) && decide (a < bufBytes) && Memory.risingFrom (a + 1) m

/-- The canonical form of the buffer: addresses strictly rising within 0..260. An unlisted address has no
value (R26), so no entry equals what an unlisted address reads as. -/
def Memory.wf (m : Memory) : Bool := Memory.risingFrom 0 m

/-- The byte at an index; an unlisted index has no value. -/
def Memory.read (m : Memory) (i : Nat) : Option Byte :=
  match m with
  | [] => none
  | (a, b) :: rest => if i = a then some b else Memory.read rest i

/-- The buffer with one byte written. -/
def Memory.write (m : Memory) (i : Nat) (v : Byte) : Memory :=
  match m with
  | [] => [(i, v)]
  | (a, b) :: rest =>
    if i < a then (i, v) :: (a, b) :: rest
    else if i = a then (i, v) :: rest
    else (a, b) :: Memory.write rest i v

/-- The `k` bytes from index `i` on, if all of them hold a value. -/
def Memory.slice (m : Memory) (i : Nat) : Nat → Option (List Byte)
  | 0 => some []
  | k + 1 =>
    match Memory.read m i, Memory.slice m (i + 1) k with
    | some b, some bs => some (b :: bs)
    | _, _ => none

/-- The source's `data`: the live bytes `buf[0..len-1]` (R14). -/
def State.data (s : State) : Option (List Byte) := Memory.slice s.buf 0 s.len.toNat

/-- `MemWrite(i, 1, v)` (R8). An index outside 0..260 does not exist. -/
def memWrite (i : Nat) (v : Byte) (s : State) : Result :=
  if i < bufBytes then .next (s.setBuf (Memory.write s.buf i v)) else .fault .bufferIndex

/-- `MemRead(i, 1)` of the completed frame (R43); a read at an index past it has no value (R45). -/
def memRead1 (i : Nat) (s : State) : Except Fault Byte :=
  match s.frameLen with
  | none => .error .noFrame
  | some n =>
    if i < n.toNat then
      match Memory.read s.buf i with
      | some b => .ok b
      | none => .error .byteWithoutValue
    else .error .frameIndex

/-- `MemRead(i, 2) = u16le(i)` of the completed frame: two one-byte reads (R42, R44). -/
def memRead2 (i : Nat) (s : State) : Except Fault Half :=
  match memRead1 i s with
  | .error f => .error f
  | .ok lo =>
    match memRead1 (i + 1) s with
    | .error f => .error f
    | .ok hi => .ok (u16le lo hi)

/-- A field operation's effect: the value read becomes a field of the record being built (R110). -/
def loadField {α : Type} (value : Except Fault α) (put : Draft → α → Draft) (s : State) : Result :=
  match value with
  | .error f => .fault f
  | .ok v => .next (s.setDraft (put s.draft v))

/-- `raise ShortTelemetryFrame(n)` (R8, R165): the sticky mark and the event. It transfers control
nowhere and there is no return from it (R165, R173). -/
def raiseShort (n : Cnt) (s : State) : State :=
  (s.setFaultShort true).emit (.fault .shortTelemetryFrame n)

/-- The canonical idle state of the assembler (R15 I1, R97). -/
def State.toIdle (s : State) : State := ((s.setSt .awaitingStart).setLen 0).setTgt none

/-- The end of `Decode`: its frame and its local record are gone (R110; log entry 3). -/
def State.endDecode (s : State) : State := (s.setFrameLen none).setDraft {}

/-- The numeric fields of a record all of whose fields are there. -/
def Draft.regs? (d : Draft) : Option RegSet :=
  match d with
  | { chgMode := some a, pvVolt := some b, batVolt := some c, chgCur := some e, loadVolt := some f,
      loadCur := some g, chgPower := some h, loadPower := some i, extTemp := some j, intTemp := some k,
      soc := some l, co2Gram := some m, .. } => some ⟨a, b, c, e, f, g, h, i, j, k, l, m⟩
  | _ => none

/-- The labels in force, if the host has supplied them (R195). -/
def State.labels? (s : State) : Option (Label × Label) :=
  match s.devName, s.tempLabel with
  | some a, some b => some (a, b)
  | _, _ => none

/-- The consumer's read of `REC` (R21): refused while `rec_valid` is 0 (R18). -/
def readRec (s : State) : Except Refusal RegSet :=
  match s.regs with
  | some r => .ok r
  | none => .error .recordNotValid

/-- The next input event as a HOST operation, and the state once the host has presented it (R9). -/
def fetchEvent (s : State) : Option (Instr × State) :=
  match s.input with
  | [] => none
  | e :: rest => some (decodeEvent e, s.setInput rest)

end Sys2Proof.Machine
end

