-- ==== Sys2Proof/Machine/Flags.lean ====
section
/-! DEFINITION. The flags (R23) and the selectors computed from the state (R67, R68). -/

namespace Sys2Proof.Machine

/-- `tgt_valid` (R13). -/
def State.tgtValid (s : State) : Bool := s.tgt.isSome

/-- `rec_valid` (R18). -/
def State.recValid (s : State) : Bool := s.regs.isSome

/-- The bit `st` (R11). -/
def stBit : AsmState → BitVec 1
  | .awaitingStart => 0
  | .accumulatingFrame => 1

/-- `pos` (R67). Where R67 names no case (`len' >= 6` with no target, or past it: outside the invariants
of R15) the path is the storing one of R91 (DESIGN CHOICE, log entry 9). -/
def bytePos (s : State) : BitVec 2 :=
  match s.st with
  | .awaitingStart => 0
  | .accumulatingFrame =>
    let len' := s.len.toNat + 1
    if len' < hdrBytes then 0
    else if len' = hdrBytes then 1
    else if s.tgt.map BitVec.toNat = some len' then 3
    else 2

/-- `sel` for the byte `c` (R67). -/
def byteSel (s : State) (c : Byte) : BitVec 11 := packSel (stBit s.st) (bytePos s) c

/-- `fsel` of the completed frame of length `n` (R68). -/
def frameSel (n : Cnt) (src typ : Byte) : BitVec 17 := packFsel (decide (n.toNat < recMinLen)) src typ

end Sys2Proof.Machine
end

