-- ==== Sys2Proof/Machine/Fields.lean ====
section
/-! DEFINITION. The thirteen field operations (R116 to R128). -/

namespace Sys2Proof.Machine

/-- X_CHG_MODE (R116). -/
def execXChgMode (s : State) : Result :=
  loadField (memRead2 (fieldIndex .chgMode) s) (fun d v => { d with chgMode := some v }) s

/-- X_PV_VOLT (R117). -/
def execXPvVolt (s : State) : Result :=
  loadField (memRead2 (fieldIndex .pvVolt) s) (fun d v => { d with pvVolt := some v }) s

/-- X_BAT_VOLT (R118). -/
def execXBatVolt (s : State) : Result :=
  loadField (memRead2 (fieldIndex .batVolt) s) (fun d v => { d with batVolt := some v }) s

/-- X_CHG_CUR (R119). -/
def execXChgCur (s : State) : Result :=
  loadField (memRead2 (fieldIndex .chgCur) s) (fun d v => { d with chgCur := some v }) s

/-- X_LOAD_VOLT (R120). -/
def execXLoadVolt (s : State) : Result :=
  loadField (memRead2 (fieldIndex .loadVolt) s) (fun d v => { d with loadVolt := some v }) s

/-- X_LOAD_CUR (R121). -/
def execXLoadCur (s : State) : Result :=
  loadField (memRead2 (fieldIndex .loadCur) s) (fun d v => { d with loadCur := some v }) s

/-- X_CHG_POWER (R122). -/
def execXChgPower (s : State) : Result :=
  loadField (memRead2 (fieldIndex .chgPower) s) (fun d v => { d with chgPower := some v }) s

/-- X_LOAD_POWER (R123). -/
def execXLoadPower (s : State) : Result :=
  loadField (memRead2 (fieldIndex .loadPower) s) (fun d v => { d with loadPower := some v }) s

/-- X_EXT_TEMP (R124): the raw byte. -/
def execXExtTemp (s : State) : Result :=
  loadField (memRead1 (fieldIndex .extTemp) s) (fun d v => { d with extTemp := some v }) s

/-- X_INT_TEMP (R125). -/
def execXIntTemp (s : State) : Result :=
  loadField (memRead1 (fieldIndex .intTemp) s) (fun d v => { d with intTemp := some (s8t200 v) }) s

/-- X_SOC (R126): the raw byte. -/
def execXSoc (s : State) : Result :=
  loadField (memRead1 (fieldIndex .soc) s) (fun d v => { d with soc := some v }) s

/-- X_CO2_GRAM (R127). -/
def execXCo2Gram (s : State) : Result :=
  loadField (memRead2 (fieldIndex .co2Gram) s) (fun d v => { d with co2Gram := some v }) s

/-- X_LABELS (R128): the configuration values as they are, a label without value included (R196 b). -/
def execXLabels (s : State) : Result :=
  .next (s.setDraft { s.draft with devName := s.devName, tempLabel := s.tempLabel })

end Sys2Proof.Machine
end

