-- ==== Sys2Proof/Machine/Decoder.lean ====
section
/-! DEFINITION. Delivery (R130, R131), the three frame outcomes (R112 to R114) and `Decode` (R110). -/

namespace Sys2Proof.Machine

/-- D_NOTIFY (R130). A record whose labels have no value is not delivered: the run is refused (R196 b). -/
def execDNotify (s : State) : Result :=
  match s.draft.regs?, s.draft.devName, s.draft.tempLabel with
  | none, _, _ => .fault .recordIncomplete
  | some r, some name, some label => .next ((s.setRegs (some r)).emit (.notify ⟨r, name, label⟩))
  | some _, _, _ => .refused .labelsNotSet

/-- D_DISCARD (R131): nothing at all. -/
def execDDiscard (s : State) : Result := .next s

/-- Delivery by `sink_en` (R75 DELIVER). -/
def deliver (s : State) : Result :=
  match selectDeliver (BitVec.ofBool s.sinkEn) with
  | .notify => execDNotify s
  | .discard => execDDiscard s

/-- The thirteen field operations in the table's order; their order is immaterial (R113). -/
def extractions : List (State → Result) :=
  [execXChgMode, execXPvVolt, execXBatVolt, execXChgCur, execXLoadVolt, execXLoadCur, execXChgPower,
    execXLoadPower, execXExtTemp, execXIntTemp, execXSoc, execXCo2Gram, execXLabels]

/-- Operations one after another. -/
def inOrder (ops : List (State → Result)) (s : State) : Result :=
  match ops with
  | [] => .next s
  | op :: rest => andThen (op s) (inOrder rest)

/-- D_TELEM (R113): all the extractions on the same frame, then delivery. -/
def execDTelem (s : State) : Result := andThen (inOrder extractions s) deliver

/-- D_SHORT (R114): raise the fault with the frame's length. -/
def execDShort (s : State) : Result :=
  match s.frameLen with
  | none => .fault .noFrame
  | some n => .next (raiseShort n s)

/-- D_DROP (R112): nothing at all, whatever the `fsel`. -/
def execDDrop (_short : Bool) (_src _typ : Byte) (s : State) : Result := .next s

/-- The frame outcome for `fsel`. -/
def frameOutcome (fsel : BitVec 17) (s : State) : Result :=
  match selectFrame fsel with
  | .telem => execDTelem s
  | .short => execDShort s
  | .drop => execDDrop (fsel.getLsbD 16) (fsel.extractLsb' 8 8) (fsel.extractLsb' 0 8) s

/-- `Decode(frame, n)` on the frame just emitted (R110, R111). -/
def decodeFrame (s : State) : Result :=
  match s.frameLen, memRead1 srcIndex s, memRead1 typIndex s with
  | none, _, _ => .fault .noFrame
  | some n, .ok src, .ok typ => frameOutcome (frameSel n src typ) s
  | some _, .error f, _ => .fault f
  | some _, .ok _, .error f => .fault f

end Sys2Proof.Machine
end

