-- ==== Sys2Proof/Machine/Assembler.lean ====
section
/-! DEFINITION. The six assembler operations (R92 to R97). Each is its rule's pseudocode, with no test of
the selector that chooses it (log entry 10). -/

namespace Sys2Proof.Machine

/-- A_START (R93). -/
def execAStart (s : State) : Result :=
  .next (((s.setLen 0).setTgt none).setSt .accumulatingFrame)

/-- A_DISCARD (R92): nothing at all. -/
def execADiscard (_c : Byte) (s : State) : Result := .next s

/-- `MemWrite(len, 1, c); len <- len + 1`, common to A_HEAD and A_BODY. -/
def storeNext (c : Byte) (s : State) : Result :=
  andThen (memWrite s.len.toNat c s) fun s1 => .next (s1.setLen (s.len + 1))

/-- A_HEAD (R94). -/
def execAHead (c : Byte) (s : State) : Result := storeNext c s

/-- A_LATCH (R95). -/
def execALatch (c : Byte) (s : State) : Result :=
  andThen (memWrite lenIndex c s) fun s1 => .next ((s1.setLen 5).setTgt (some (targetLen c)))

/-- A_BODY (R96). -/
def execABody (c : Byte) (s : State) : Result := storeNext c s

/-- `emit Frame(buf[0 .. n-1])`, back to the idle state, and the frame handed to the decoder (R97, R105). -/
def handOver (n : Cnt) (s : State) : Result :=
  match Memory.slice s.buf 0 n.toNat with
  | none => .fault .byteWithoutValue
  | some frame => .next ((s.emit (.frame frame)).toIdle.setFrameLen (some n))

/-- A_COMPLETE (R97). -/
def execAComplete (c : Byte) (s : State) : Result :=
  andThen (memWrite s.len.toNat c s) fun s1 =>
    andThen (handOver (s.len + 1) s1) fun s2 =>
      andThen (decodeFrame s2) fun s3 => .next s3.endDecode

end Sys2Proof.Machine
end

