-- ==== Sys2Proof/Machine/HostOps.lean ====
section
/-! DEFINITION. The five host operations (R141 to R145). -/

namespace Sys2Proof.Machine

/-- H_RESET (R141): the reset state. What the host has still to present and what was already emitted are
not the block's and stay (log entry 11). -/
def execHReset (s : State) : Result :=
  .next ((State.reset.setInput s.input).setOutput s.output)

/-- H_REGISTER_SINK (R142). -/
def execHRegisterSink (s : State) : Result := .next (s.setSinkEn true)

/-- H_SET_LABELS (R143). -/
def execHSetLabels (name label : Label) (s : State) : Result :=
  .next ((s.setDevName (some name)).setTempLabel (some label))

/-- H_BYTE (R144): the step of R91, by the operation that `sel` selects. -/
def execHByte (c : Byte) (s : State) : Result :=
  match selectByte (byteSel s c) with
  | .start => execAStart s
  | .discard => execADiscard c s
  | .head => execAHead c s
  | .latch => execALatch c s
  | .body => execABody c s
  | .complete => execAComplete c s

/-- H_FEED (R145): H_BYTE for each byte of the chunk, in order. -/
def execHFeed (chunk : List Byte) (s : State) : Result :=
  match chunk with
  | [] => .next s
  | c :: rest => andThen (execHByte c s) (execHFeed rest)

end Sys2Proof.Machine
end

