-- ==== Sys2Proof/Machine/Dispatch.lean ====
section
/-! DEFINITION. One arm per operation of spec/opcode_table.json. -/

namespace Sys2Proof.Machine

def exec (i : Instr) (s : State) : Host.Outcome State Fault Refusal :=
  match i with
  | .aStart => Sys2Proof.Machine.execAStart s
  | .aDiscard c => Sys2Proof.Machine.execADiscard c s
  | .aHead c => Sys2Proof.Machine.execAHead c s
  | .aLatch c => Sys2Proof.Machine.execALatch c s
  | .aBody c => Sys2Proof.Machine.execABody c s
  | .aComplete c => Sys2Proof.Machine.execAComplete c s
  | .dTelem => Sys2Proof.Machine.execDTelem s
  | .dShort => Sys2Proof.Machine.execDShort s
  | .dDrop short src typ => Sys2Proof.Machine.execDDrop short src typ s
  | .xChgMode => Sys2Proof.Machine.execXChgMode s
  | .xPvVolt => Sys2Proof.Machine.execXPvVolt s
  | .xBatVolt => Sys2Proof.Machine.execXBatVolt s
  | .xChgCur => Sys2Proof.Machine.execXChgCur s
  | .xLoadVolt => Sys2Proof.Machine.execXLoadVolt s
  | .xLoadCur => Sys2Proof.Machine.execXLoadCur s
  | .xChgPower => Sys2Proof.Machine.execXChgPower s
  | .xLoadPower => Sys2Proof.Machine.execXLoadPower s
  | .xExtTemp => Sys2Proof.Machine.execXExtTemp s
  | .xIntTemp => Sys2Proof.Machine.execXIntTemp s
  | .xSoc => Sys2Proof.Machine.execXSoc s
  | .xCo2Gram => Sys2Proof.Machine.execXCo2Gram s
  | .xLabels => Sys2Proof.Machine.execXLabels s
  | .dNotify => Sys2Proof.Machine.execDNotify s
  | .dDiscard => Sys2Proof.Machine.execDDiscard s
  | .hReset => Sys2Proof.Machine.execHReset s
  | .hRegisterSink => Sys2Proof.Machine.execHRegisterSink s
  | .hSetLabels name label => Sys2Proof.Machine.execHSetLabels name label s
  | .hByte c => Sys2Proof.Machine.execHByte c s
  | .hFeed chunk => Sys2Proof.Machine.execHFeed chunk s

end Sys2Proof.Machine
end

