-- ==== Sys2Proof/Machine/Place.lean ====
section
/-! DEFINITION. Putting the block where its next step performs a given row of the opcode table (log entry
13). The block fetches no program, so what stands for a placed instruction is the next input event and, for a
BYTE, FRAME or DELIVER row, the assembler state that makes this event select the row. -/

namespace Sys2Proof.Machine

/-- The event that comes next. -/
def placeEvent (e : Event) (s : State) : State := s.setInput (e :: s.input)

/-- `bytes` stored from index `i` on. -/
def storeAll (m : Memory) (i : Nat) : List Byte → Memory
  | [] => m
  | b :: rest => storeAll (Memory.write m i b) (i + 1) rest

/-- The assembler with `data` accumulated and the target `tgt`. -/
def placeData (data : List Byte) (tgt : Option Cnt) (s : State) : State :=
  (((s.setSt .accumulatingFrame).setLen (BitVec.ofNat 9 data.length)).setTgt tgt).setBuf (storeAll s.buf 0 data)

/-- The assembler where the byte `sel[7:0]` has the selector `sel`. -/
def placeByte (sel : BitVec 11) (s : State) : State :=
  let s := placeEvent (.byte (sel.extractLsb' 0 8)) s
  if sel.getLsbD 10 then
    match sel.extractLsb' 8 2 with
    | 0 => placeData [] none s
    | 1 => placeData [0, 0, 0, 0] none s
    | 2 => placeData [0, 0, 0, 0, 1] (some 7) s
    | _ => placeData [0, 0, 0, 0, 0] (some 6) s
  else s.toIdle

/-- The assembler one byte before completing a frame with the selector `fsel`: 6 bytes if short, else 35. -/
def placeFrame (fsel : BitVec 17) (s : State) : State :=
  let head := [0, 0, fsel.extractLsb' 8 8, fsel.extractLsb' 0 8]
  let s := placeEvent (.byte 0) s
  if fsel.getLsbD 16 then placeData (head ++ [0]) (some 6) s
  else placeData (head ++ [29] ++ List.replicate 29 0) (some 35) s

/-- The assembler one byte before completing a telemetry frame that is delivered by `sink_en = en`; the labels
must hold values for it (R195), so one that holds none is set to the empty one. -/
def placeDeliver (en : BitVec 1) (s : State) : State :=
  (((placeFrame telemFsel s).setSinkEn (en == 1)).setDevName (some (s.devName.getD []))).setTempLabel
    (some (s.tempLabel.getD []))

/-- The word of a row, by its format's width (as `decodeTableWord` reads it). -/
def placeWord (s : State) (nbits w : Nat) : State :=
  if nbits = 0 then placeFrame (BitVec.ofNat 17 w) s
  else if nbits = 1 then placeDeliver (BitVec.ofNat 1 w) s
  else if nbits ≤ 8 then placeEvent (eventOfKind (BitVec.ofNat 2 w) 0 [] []) s
  else if nbits ≤ 16 then placeByte (BitVec.ofNat 11 w) s
  else if nbits ≤ 24 then placeFrame (BitVec.ofNat 17 w) s
  else s

end Sys2Proof.Machine
end

