-- ==== Sys2Proof/Machine/Step.lean ====
section
/-! DEFINITION. One step: the block's whole response to one input event (R9). -/

namespace Sys2Proof.Machine

/-- The next input event is taken and performed; with no event nothing happens (log entry 2). -/
def step (s : State) : Host.Outcome State Fault Refusal :=
  match fetchEvent s with
  | none => .next s
  | some (i, s') => exec i s'

/-- `s` with a row of the opcode table placed where the next step performs it (log entry 13). -/
def State.withFetchWord (s : State) (nbits w : Nat) : State := placeWord s nbits w

end Sys2Proof.Machine
end

