-- ==== Sys2Proof/Machine/Driver.lean ====
section
/-! DEFINITION. The block's environment as the spec describes it (R4 d): the Poll/Resync Driver (R150 to
R152, R163, R180). It is no part of the block; the block sees only the bytes it feeds (log entry 15). -/

namespace Sys2Proof.Machine

/-- The driver's two regimes (R150, R151). -/
inductive Mode where
  | normal
  | recovering
  deriving DecidableEq, Repr

/-- The fixed outbound messages (R73). -/
inductive Outbound where
  | pollRequest
  | loadOn
  | loadOff
  deriving DecidableEq, Repr

/-- Their bytes, OPEN (R73). -/
def outboundBytes : Outbound → List Byte
  | .pollRequest => Config.pollRequestBytes
  | .loadOn => Config.loadOnBytes
  | .loadOff => Config.loadOffBytes

/-- What a transport call answers: its result, or the single condition `TransportFailure` with no further
detail (R152). -/
inductive Answer (α : Type) where
  | ok (a : α)
  | failed
  deriving DecidableEq, Repr

/-- The transport's five calls with their answers (R152), and the driver's back-off delay (R151). -/
inductive Action where
  | open (answer : Answer Unit)
  | bytesWaiting (answer : Answer Nat)
  | read (maxBytes : Nat) (answer : Answer (List Byte))
  | write (m : Outbound) (answer : Answer Unit)
  | close (answer : Answer Unit)
  | backoff
  deriving DecidableEq, Repr

/-- What one turn of the draining loop meets: the answer of `bytes_waiting`, and of the read made if that
count is not 0 (R150). -/
structure Round where
  waiting : Answer Nat
  read : Answer (List Byte)
  deriving DecidableEq, Repr

/-- What one invocation meets: the time, the turns of its loop, the answers of the poll's write and of the
close that a failure brings. -/
structure Invocation where
  now : Rat
  rounds : List Round
  writing : Answer Unit
  closing : Answer Unit
  deriving DecidableEq, Repr

/-- What one recovery attempt meets (R151). An attempt that fails carries the answer of its close. -/
inductive Probe where
  | openFailed (closing : Answer Unit)
  | readFailed (closing : Answer Unit)
  | noBytes (closing : Answer Unit)
  | bytes (first : Byte) (more : List Byte)
  deriving DecidableEq, Repr

/-- The driver with the block it feeds. `pollTimer` is in seconds (R180). In the recovering regime the call
that met the failure has not returned (R163). -/
structure Driver where
  block : State
  pollTimer : Rat
  mode : Mode
  actions : List Action
  deriving DecidableEq, Repr

/-- What driving the block answers: the block may refuse a run (R196). -/
abbrev DriverResult := Host.Outcome Driver Fault Refusal

/-- Before the first invocation. DESIGN CHOICE: the spec names only `POLLTIMER_INIT` here; the model starts
in the normal regime with the transport taken as open already, so with no open in the trace (log entry 20). -/
def Driver.initial : Driver where
  block := State.reset
  pollTimer := Config.pollTimerInit
  mode := .normal
  actions := []

/-- More actions at the end of the trace. -/
def Driver.act (d : Driver) (as : List Action) : Driver := { d with actions := d.actions ++ as }

/-- A chunk handed to the block. -/
def feedBlock (chunk : List Byte) (d : Driver) : DriverResult :=
  match execHFeed chunk d.block with
  | .next b => .next { d with block := b }
  | .fault r => .fault r
  | .refused r => .refused r

/-- Any transport failure: close, and on to the recovery regime (R151). A close that itself fails is one
more `TransportFailure`, and the regime it leads to is the one entered (log entry 21). -/
def fail (closing : Answer Unit) (d : Driver) : Driver := { d.act [.close closing] with mode := .recovering }

/-- Draining in chunks only while `bytes_waiting` counts some (R150). Past the turns listed it counts
none (log entry 15). -/
def drain (rounds : List Round) (closing : Answer Unit) (d : Driver) : DriverResult :=
  match rounds with
  | [] => .next (d.act [.bytesWaiting (.ok 0)])
  | r :: rest =>
    match r.waiting, r.read with
    | .failed, _ => .next (fail closing (d.act [.bytesWaiting .failed]))
    | .ok 0, _ => .next (d.act [.bytesWaiting (.ok 0)])
    | .ok (n + 1), .failed =>
      .next (fail closing (d.act [.bytesWaiting (.ok (n + 1)), .read Config.chunkMax .failed]))
    | .ok (n + 1), .ok chunk =>
      match feedBlock chunk (d.act [.bytesWaiting (.ok (n + 1)), .read Config.chunkMax (.ok chunk)]) with
      | .next d' => drain rest closing d'
      | .fault r => .fault r
      | .refused r => .refused r

/-- A write of a fixed message (R73); a failure leads to recovery (R151). -/
def writeOut (m : Outbound) (writing closing : Answer Unit) (d : Driver) : Driver :=
  match writing with
  | .ok () => d.act [.write m (.ok ())]
  | .failed => fail closing (d.act [.write m .failed])

/-- The poll request, if a second has passed since the last one (R150). A failed write leaves at once, so
PollTimer stays (log entry 15). -/
def poll (v : Invocation) (d : Driver) : Driver :=
  if pollInterval ≤ v.now - d.pollTimer then
    { writeOut .pollRequest v.writing v.closing d with
      pollTimer := if v.writing = .ok () then v.now else d.pollTimer }
  else d

/-- One invocation (R150). In the recovering regime the caller is blocked in the call that met the failure
(R163), so no invocation begins. -/
def invoke (v : Invocation) (d : Driver) : DriverResult :=
  match d.mode with
  | .recovering => .next d
  | .normal =>
    match drain v.rounds v.closing d with
    | .next d' =>
      match d'.mode with
      | .normal => .next (poll v d')
      | .recovering => .next d'
    | .fault r => .fault r
    | .refused r => .refused r

/-- An attempt that failed after `calls`: it produced no bytes, so the transport is closed before the next try,
and the back-off delay follows (R151). DESIGN CHOICE: the spec does not order the two; the model closes
first and then backs off (log entry 19). -/
def failAttempt (calls : List Action) (closing : Answer Unit) (d : Driver) : Driver :=
  d.act (calls ++ [.close closing, .backoff])

/-- One attempt of the recovery regime (R151): it ends once the reopened transport yields a byte. Whether the
bytes of that read reach the block is OPEN (D18). In the normal regime no attempt is made. -/
def attempt (p : Probe) (d : Driver) : DriverResult :=
  match d.mode with
  | .normal => .next d
  | .recovering =>
    match p with
    | .openFailed closing => .next (failAttempt [.open .failed] closing d)
    | .readFailed closing =>
      .next (failAttempt [.open (.ok ()), .read Config.probeReadMax .failed] closing d)
    | .noBytes closing =>
      .next (failAttempt [.open (.ok ()), .read Config.probeReadMax (.ok [])] closing d)
    | .bytes first more =>
      let d' := { d.act [.open (.ok ()), .read Config.probeReadMax (.ok (first :: more))] with mode := .normal }
      if Config.probeBytesFed then feedBlock (first :: more) d' else .next d'

/-- The blocking recovery loop (R151, R163): attempts one after another until one ends the regime. If none of
those listed does, the call is still blocked. -/
def recover (probes : List Probe) (d : Driver) : DriverResult :=
  match probes with
  | [] => .next d
  | p :: rest =>
    match attempt p d with
    | .next d' => recover rest d'
    | .fault r => .fault r
    | .refused r => .refused r

/-- A whole call of the driver: the invocation, and the recovery in which a failure blocks it (R163). DESIGN
CHOICE: the call returns once recovery ends and drains no more (log entry 22). -/
def callDriver (v : Invocation) (probes : List Probe) (d : Driver) : DriverResult :=
  match invoke v d with
  | .next d' => recover probes d'
  | .fault r => .fault r
  | .refused r => .refused r

/-- An explicitly invoked load command (R73, R152): no part of the poll cycle; the block takes no part. It can
not begin while the caller is blocked in recovery (R163; log entry 23). -/
def sendCommand (on : Bool) (writing closing : Answer Unit) (d : Driver) : Driver :=
  match d.mode with
  | .recovering => d
  | .normal => writeOut (if on then .loadOn else .loadOff) writing closing d

end Sys2Proof.Machine
end

