-- ==== Sys2Proof/Machine/Stimulus.lean ====
section
/-! DEFINITION. The stimulus notation and its macros (R78), and the bytes of a frame (R60). -/

namespace Sys2Proof.Machine

/-- A line of stimulus: one host operation (R78). -/
inductive Line where
  | reset
  | labels (name label : Label)
  | sink
  | feed (bytes : List Byte)
  deriving DecidableEq, Repr

/-- The input events a line stands for; a chunk is its bytes in order (R145). -/
def lineEvents : Line → List Event
  | .reset => [.reset]
  | .labels name label => [.setLabels name label]
  | .sink => [.registerSink]
  | .feed bytes => bytes.map .byte

/-- The state with a stimulus to be presented, after whatever was there. -/
def loadStimulus (lines : List Line) (s : State) : State := s.setInput (s.input ++ lines.flatMap lineEvents)

/-- What a frame is made of: `data[0..3]`, the body and the tail byte (R60). -/
structure FrameDesc where
  h0 : Byte
  h1 : Byte
  src : Byte
  typ : Byte
  body : List Byte
  tail : Byte
  deriving DecidableEq, Repr

/-- The `data` bytes of a frame, `6 + L` of them (R60). -/
def frameData (f : FrameDesc) : List Byte :=
  [f.h0, f.h1, f.src, f.typ, BitVec.ofNat 8 f.body.length] ++ f.body ++ [f.tail]

/-- `FRAME(h0, h1, s, t; body; z)`: the bytes on the wire, `7 + L` of them (R60, R78). -/
def frameWire (f : FrameDesc) : List Byte := sentinel :: frameData f

/-- `LE16(v)` (R78). -/
def le16 (v : Nat) : List Byte := [BitVec.ofNat 8 (v % 256), BitVec.ofNat 8 (v / 256)]

/-- `TELEM34` (R78): a telemetry frame of 40 data bytes, every unread body byte 0. -/
def telem34 (h0 h1 : Byte) (m pv bv cc lv lc cp lp : Nat) (et it so : Byte) (co : Nat) (z : Byte) : FrameDesc where
  h0 := h0
  h1 := h1
  src := srcTelem
  typ := typTelem
  body := [0, 0] ++ le16 m ++ le16 pv ++ le16 bv ++ le16 cc ++ [0, 0] ++ le16 lv ++ le16 lc ++ le16 cp ++ le16 lp ++
    [et, 0, it, 0, so, 0, 0, 0] ++ le16 co ++ [0, 0, 0, 0]
  tail := z

end Sys2Proof.Machine
end

