-- ==== Sys2Proof/Safety.lean ====
section
/-! DEFINITION. The terms claims are stated in: the invariants, the conditions, what a frame decodes to as
a list of bytes, and how the outcomes of two steps are compared. -/

namespace Sys2Proof.Machine

/-- The invariants I1 to I4 of the assembler state (R15). -/
structure AssemblerInv (s : State) : Prop where
  i1 : s.st = .awaitingStart → s.len = 0 ∧ s.tgt = none
  i2 : s.st = .accumulatingFrame → s.len.toNat ≤ 260
  i3 : s.st = .accumulatingFrame → (s.tgt.isSome = true ↔ 5 ≤ s.len.toNat)
  i4 : ∀ t, s.tgt = some t → ∃ b, Memory.read s.buf 4 = some b ∧ t.toNat = 6 + b.toNat ∧
    6 ≤ t.toNat ∧ t.toNat ≤ 261 ∧ s.len.toNat < t.toNat

/-- The invariant of the states between steps: R15, the canonical form of the buffer, a value at every
live index (R14), and no decode under way. -/
structure StateInv (s : State) : Prop where
  assembler : AssemblerInv s
  wf : Memory.wf s.buf = true
  live : ∀ i, i < s.len.toNat → (Memory.read s.buf i).isSome = true
  idleDecoder : s.frameLen = none ∧ s.draft = {}

/-- Both labels hold values (R195). -/
def LabelsSet (s : State) : Prop := s.devName.isSome = true ∧ s.tempLabel.isSome = true

/-- What a delivery would need is there: with a consumer registered, the labels hold values (R195, R196 b). -/
def DeliveryReady (s : State) : Prop := s.sinkEn = true → LabelsSet s

/-- The reset table (R26). "No value" is no readable value. -/
structure ResetTable (s : State) : Prop where
  st : s.st = .awaitingStart
  len : s.len = 0
  tgtValid : s.tgtValid = false
  tgt : s.tgt = none
  buf : ∀ i, Memory.read s.buf i = none
  sinkEn : s.sinkEn = false
  faultShort : s.faultShort = false
  recValid : s.recValid = false
  regs : s.regs = none
  devName : s.devName = none
  tempLabel : s.tempLabel = none

/-- No fault is recorded (R17, R165). -/
def NoFaultRecorded (s : State) : Prop := s.faultShort = false

/-- The conditions X1 to X5 (R160). -/
inductive Condition where
  | framingAmbiguity
  | unrecognizedFrame
  | transportFailure
  | noConsumer
  | shortTelemetryFrame
  deriving DecidableEq, Repr

/-- The condition an operation meets, where its selection is the condition (R160 to R165). Of X1 this is the
first half, an unexpected byte while idle: its second half, an implausible length byte, is no selection of its
own, the block accumulates as for any other (R161). X3 is the host's own and no operation meets it. -/
def conditionOf : Instr → Option Condition
  | .aDiscard _ => some .framingAmbiguity
  | .dDrop _ _ _ => some .unrecognizedFrame
  | .dDiscard => some .noConsumer
  | .dShort => some .shortTelemetryFrame
  | .aStart => none
  | .aHead _ => none
  | .aLatch _ => none
  | .aBody _ => none
  | .aComplete _ => none
  | .dTelem => none
  | .xChgMode => none
  | .xPvVolt => none
  | .xBatVolt => none
  | .xChgCur => none
  | .xLoadVolt => none
  | .xLoadCur => none
  | .xChgPower => none
  | .xLoadPower => none
  | .xExtTemp => none
  | .xIntTemp => none
  | .xSoc => none
  | .xCo2Gram => none
  | .xLabels => none
  | .dNotify => none
  | .hReset => none
  | .hRegisterSink => none
  | .hSetLabels _ _ => none
  | .hByte _ => none
  | .hFeed _ => none

/-! What `Decode` makes of a frame, as a function of the list of its bytes (R66, R110). -/

/-- The byte at an index. -/
def byteAt (frame : List Byte) (i : Nat) : Byte := frame.getD i 0

/-- `u16le(i)` (R42). -/
def u16At (frame : List Byte) (i : Nat) : Half :=
  BitVec.ofNat 16 ((byteAt frame i).toNat + 256 * (byteAt frame (i + 1)).toNat)

/-- The temperature of R125. -/
def tempAt (frame : List Byte) (i : Nat) : Cnt :=
  let raw : Int := (byteAt frame i).toNat
  BitVec.ofInt 9 (if 200 ≤ raw then raw - 256 else raw)

/-- The numeric fields of a telemetry frame (R110). -/
def recordOf (frame : List Byte) : RegSet where
  chgMode := u16At frame 7
  pvVolt := u16At frame 9
  batVolt := u16At frame 11
  chgCur := u16At frame 13
  loadVolt := u16At frame 17
  loadCur := u16At frame 19
  chgPower := u16At frame 21
  loadPower := u16At frame 23
  extTemp := byteAt frame 25
  intTemp := tempAt frame 27
  soc := byteAt frame 29
  co2Gram := u16At frame 33

/-- What becomes of a completed frame (R110, R171 c). -/
inductive FrameFate where
  | dropped
  | short (n : Cnt)
  | discarded
  | delivered (r : Record)
  | refused
  deriving DecidableEq, Repr

/-- The tests in their order: the filter, the length, `sink_en` (R171 c); a delivery needs the labels (R196 b). -/
def frameFate (sink : Bool) (labels : Option (Label × Label)) (frame : List Byte) : FrameFate :=
  if byteAt frame 2 ≠ 3 ∨ byteAt frame 3 ≠ 0 then .dropped
  else if frame.length < 35 then .short (BitVec.ofNat 9 frame.length)
  else if sink = false then .discarded
  else
    match labels with
    | some (name, label) => .delivered ⟨recordOf frame, name, label⟩
    | none => .refused

/-- The events a fate emits after the `Frame` event. -/
def fateEvents : FrameFate → List OutEvent
  | .dropped => []
  | .short n => [.fault .shortTelemetryFrame n]
  | .discarded => []
  | .delivered r => [.notify r]
  | .refused => []

/-- `fault_short` after a fate. -/
def fateFault (before : Bool) : FrameFate → Bool
  | .short _ => true
  | .dropped => before
  | .discarded => before
  | .delivered _ => before
  | .refused => before

/-- `REC` after a fate. -/
def fateRegs (before : Option RegSet) : FrameFate → Option RegSet
  | .delivered r => some r.regs
  | .dropped => before
  | .short _ => before
  | .discarded => before
  | .refused => before

/-- The completing step on the data so far and its last byte `c` (R97, R110). -/
def completeStep (s : State) (data : List Byte) (c : Byte) : Result :=
  let frame := data ++ [c]
  let fate := frameFate s.sinkEn s.labels? frame
  if fate = .refused then .refused .labelsNotSet
  else .next { s with
    st := .awaitingStart
    len := 0
    tgt := none
    buf := Memory.write s.buf s.len.toNat c
    faultShort := fateFault s.faultShort fate
    regs := fateRegs s.regs fate
    output := s.output ++ .frame frame :: fateEvents fate }

/-- The whole `Byte` step as R91 writes it, in its own order of tests, on the data so far. -/
def byteStep (s : State) (data : List Byte) (c : Byte) : Result :=
  match s.st with
  | .awaitingStart =>
    if c = 0xAA then .next { s with len := 0, tgt := none, st := .accumulatingFrame } else .next s
  | .accumulatingFrame =>
    let len' := s.len.toNat + 1
    let tgt' := if len' = 5 then some (6 + c.toNat) else s.tgt.map BitVec.toNat
    if tgt' = some len' then completeStep s data c
    else .next { s with
      buf := Memory.write s.buf s.len.toNat c
      len := BitVec.ofNat 9 len'
      tgt := tgt'.map (BitVec.ofNat 9) }

/-- The frames among events. -/
def framesOf : List OutEvent → List (List Byte)
  | [] => []
  | .frame f :: rest => f :: framesOf rest
  | .notify _ :: rest => framesOf rest
  | .fault _ _ :: rest => framesOf rest

/-- The delivered records among events. -/
def notifiesOf : List OutEvent → List Record
  | [] => []
  | .notify r :: rest => r :: notifiesOf rest
  | .frame _ :: rest => notifiesOf rest
  | .fault _ _ :: rest => notifiesOf rest

/-- The four shapes of a step's event list (R9). -/
def StepEvents (events : List OutEvent) : Prop :=
  events = [] ∨ (∃ f, events = [.frame f]) ∨ (∃ f r, events = [.frame f, .notify r]) ∨
    ∃ f n, events = [.frame f, .fault .shortTelemetryFrame n]

/-- Two outcomes of the same kind, related if they go on, equal if they stop. -/
def SameOutcome (R : State → State → Prop) : Result → Result → Prop
  | .next a, .next b => R a b
  | .fault a, .fault b => a = b
  | .refused a, .refused b => a = b
  | _, _ => False

/-- The two bytes of a field of the completed frame (R42). -/
def TwoBytesAt (s : State) (i : Nat) (lo hi : Byte) : Prop :=
  ∃ n, s.frameLen = some n ∧ i + 1 < n.toNat ∧ Memory.read s.buf i = some lo ∧ Memory.read s.buf (i + 1) = some hi

/-- The byte of a field of the completed frame (R43). -/
def OneByteAt (s : State) (i : Nat) (b : Byte) : Prop :=
  ∃ n, s.frameLen = some n ∧ i < n.toNat ∧ Memory.read s.buf i = some b

/-- The thirteen field operations (R113). -/
def fieldOps : List Instr := allFields.map fieldInstr ++ [.xLabels]

/-- The frame indices some rule reads in a telemetry frame (R47). -/
def readIndices : List Nat :=
  [2, 3, 7, 8, 9, 10, 11, 12, 13, 14, 17, 18, 19, 20, 21, 22, 23, 24, 25, 27, 29, 33, 34]

/-- Two states that differ at most in bytes no rule can read: those at indices from `len` on (R14, R25 a). -/
structure SameLive (a b : State) : Prop where
  st : a.st = b.st
  len : a.len = b.len
  tgt : a.tgt = b.tgt
  live : ∀ i, i < a.len.toNat → Memory.read a.buf i = Memory.read b.buf i
  sinkEn : a.sinkEn = b.sinkEn
  faultShort : a.faultShort = b.faultShort
  regs : a.regs = b.regs
  devName : a.devName = b.devName
  tempLabel : a.tempLabel = b.tempLabel
  frameLen : a.frameLen = b.frameLen
  draft : a.draft = b.draft
  input : a.input = b.input
  output : a.output = b.output

/-! Renaming the labels everywhere: the block never looks into one (R19). -/

/-- An event with its labels renamed. -/
def renameEvent (g : Label → Label) : Event → Event
  | .setLabels name label => .setLabels (g name) (g label)
  | .byte c => .byte c
  | .reset => .reset
  | .registerSink => .registerSink

/-- An output event with its labels renamed. -/
def renameOut (g : Label → Label) : OutEvent → OutEvent
  | .notify r => .notify ⟨r.regs, g r.devName, g r.tempLabel⟩
  | .frame f => .frame f
  | .fault code n => .fault code n

/-- A state with its labels renamed. -/
def renameLabels (g : Label → Label) (s : State) : State :=
  { s with
    devName := s.devName.map g
    tempLabel := s.tempLabel.map g
    draft := { s.draft with devName := s.draft.devName.map g, tempLabel := s.draft.tempLabel.map g }
    input := s.input.map (renameEvent g)
    output := s.output.map (renameOut g) }

/-! The draining loop of the environment (R150). -/

/-- The chunks a draining loop reads before it ends. -/
def drained : List Round → List (List Byte)
  | [] => []
  | ⟨.ok (_ + 1), .ok chunk⟩ :: rest => chunk :: drained rest
  | ⟨.ok 0, _⟩ :: _ => []
  | ⟨.ok (_ + 1), .failed⟩ :: _ => []
  | ⟨.failed, _⟩ :: _ => []

/-- Whether a transport call of a draining loop fails before it ends. -/
def drainFails : List Round → Bool
  | [] => false
  | ⟨.ok (_ + 1), .ok _⟩ :: rest => drainFails rest
  | ⟨.ok 0, _⟩ :: _ => false
  | ⟨.ok (_ + 1), .failed⟩ :: _ => true
  | ⟨.failed, _⟩ :: _ => true

end Sys2Proof.Machine
end

