-- ==== Sys2Proof/Certificates/Slice0/Obligations.lean ====
section
/-! DEFINITION. The statements for the provers. Each docstring names the rules it rests on. Memory is said
through `Memory.read`; a record update `{ s with … }` names every element that changes, so that all others,
every register, flag and byte of memory among them, are said to stay. -/

open Sys2Proof Sys2Proof.Machine

/-! Reset and the host operations. -/

/-- R26: at power-on and after H_RESET from any state, every element has the value of the reset table. -/
def Obligations.ResetValuesAreTheTable : Prop :=
  ResetTable State.reset ∧ ∀ s, ∃ t, exec .hReset s = .next t ∧ ResetTable t

/-- R15: the invariants hold at reset, with the model's own (canonical buffer, live bytes, no decode under way). -/
def Obligations.ResetMeetsInvariant : Prop := StateInv State.reset

/-- R141: reset gives every element its reset value with no event, abandoning a frame in progress; it is the only
operation that clears `fault_short` or `sink_en` and, but for completing the frame, that leaves `AccumulatingFrame`. -/
def Obligations.ResetOperation : Prop :=
  (∀ s, ∃ t, exec .hReset s = .next t ∧ ResetTable t ∧ t.output = s.output) ∧
  ∀ s t, StateInv s → step s = .next t →
    (s.faultShort = true ∧ t.faultShort = false ∨ s.sinkEn = true ∧ t.sinkEn = false →
      s.input.head? = some .reset) ∧
    (s.st = .accumulatingFrame → t.st = .awaitingStart →
      s.input.head? = some .reset ∨ ∃ f, f ∈ framesOf (t.output.drop s.output.length))

/-- The model's choice, log entry 11: reset leaves what the host has still to present, and what was emitted. -/
def Obligations.ResetKeepsTheStream : Prop :=
  ∀ s, exec .hReset s = .next { State.reset with input := s.input, output := s.output }

/-- R142: the consumer is registered; nothing else changes. -/
def Obligations.RegisterSinkOperation : Prop :=
  ∀ s, exec .hRegisterSink s = .next { s with sinkEn := true }

/-- R143: the two labels are set; nothing else changes. -/
def Obligations.SetLabelsOperation : Prop :=
  ∀ s name label, exec (.hSetLabels name label) s =
    .next { s with devName := some name, tempLabel := some label }

/-- R145: feed is the left fold of H_BYTE over the chunk; the empty chunk changes nothing, and feeding two chunks
is feeding them joined. -/
def Obligations.FeedFoldsBytes : Prop :=
  (∀ s, exec (.hFeed []) s = .next s) ∧
  (∀ c rest s, exec (.hFeed (c :: rest)) s = andThen (exec (.hByte c) s) (exec (.hFeed rest))) ∧
  ∀ a b s, exec (.hFeed (a ++ b)) s = andThen (exec (.hFeed a) s) (exec (.hFeed b))

/-! The assembler operations. -/

/-- R92: while idle, any byte but the sentinel is discarded; discarding changes nothing. -/
def Obligations.DiscardOperation : Prop :=
  (∀ s c, exec (.aDiscard c) s = .next s) ∧
  ∀ s c, s.st = .awaitingStart → c ≠ 0xAA → exec (.hByte c) s = exec (.aDiscard c) s

/-- R93: while idle, the sentinel starts a frame; it is not stored. -/
def Obligations.StartOperation : Prop :=
  (∀ s, exec .aStart s = .next { s with len := 0, tgt := none, st := .accumulatingFrame }) ∧
  ∀ s, s.st = .awaitingStart → exec (.hByte 0xAA) s = exec .aStart s

/-- R94: one of the first four bytes is stored at `len`, and `len` goes up by one; any byte is data. -/
def Obligations.HeadOperation : Prop :=
  ∀ s c, s.st = .accumulatingFrame → s.len.toNat + 1 < 5 →
    exec (.hByte c) s = exec (.aHead c) s ∧
    ∃ t, exec (.aHead c) s = .next t ∧ t = { s with buf := t.buf, len := t.len } ∧
      t.len.toNat = s.len.toNat + 1 ∧
      ∀ i, Memory.read t.buf i = if i = s.len.toNat then some c else Memory.read s.buf i

/-- R95: the length byte is stored at index 4 and fixes the target `6 + L`, which does not wrap. -/
def Obligations.LatchOperation : Prop :=
  ∀ s c, s.st = .accumulatingFrame → s.len.toNat + 1 = 5 →
    exec (.hByte c) s = exec (.aLatch c) s ∧
    ∃ t v, exec (.aLatch c) s = .next t ∧ t = { s with buf := t.buf, len := 5, tgt := some v } ∧
      v.toNat = 6 + c.toNat ∧ t.tgtValid = true ∧
      ∀ i, Memory.read t.buf i = if i = 4 then some c else Memory.read s.buf i

/-- R96: a byte after the length byte that is not the last is stored at `len`, and `len` goes up by one. -/
def Obligations.BodyOperation : Prop :=
  ∀ s c v, s.st = .accumulatingFrame → 6 ≤ s.len.toNat + 1 → s.tgt = some v →
    s.len.toNat + 1 < v.toNat → v.toNat ≤ 261 →
    exec (.hByte c) s = exec (.aBody c) s ∧
    ∃ t, exec (.aBody c) s = .next t ∧ t = { s with buf := t.buf, len := t.len } ∧
      t.len.toNat = s.len.toNat + 1 ∧
      ∀ i, Memory.read t.buf i = if i = s.len.toNat then some c else Memory.read s.buf i

/-- R97, R110: the last byte completes the frame: it is stored, the frame is emitted, the assembler is idle
again, and the frame's fate follows in the same step, by the decoder's tests on the list of its bytes. -/
def Obligations.CompleteOperation : Prop :=
  ∀ s c v data, StateInv s → s.st = .accumulatingFrame → s.tgt = some v → s.len.toNat + 1 = v.toNat →
    s.data = some data →
    exec (.hByte c) s = exec (.aComplete c) s ∧ exec (.aComplete c) s = completeStep s data c ∧
    (DeliveryReady s → ∃ t, exec (.aComplete c) s = .next t ∧ t.st = .awaitingStart ∧ t.len = 0 ∧
      t.tgtValid = false ∧ framesOf (t.output.drop s.output.length) = [data ++ [c]])

/-- R91: the whole `Byte` step is the source's algorithm, for every byte and every state that meets the
invariants; the decoder's part is that of R110 on the list of the frame's bytes. -/
def Obligations.ByteStepIsTheAlgorithm : Prop :=
  ∀ s c data, StateInv s → s.data = some data → exec (.hByte c) s = byteStep s data c

/-- R90: exactly one of the six operations is selected, by the conditions of R67. -/
def Obligations.SelectorsAreTheConditions : Prop :=
  ∀ s c, StateInv s →
    (selectByte (byteSel s c) = .start ↔ s.st = .awaitingStart ∧ c = 0xAA) ∧
    (selectByte (byteSel s c) = .discard ↔ s.st = .awaitingStart ∧ c ≠ 0xAA) ∧
    (selectByte (byteSel s c) = .head ↔ s.st = .accumulatingFrame ∧ s.len.toNat + 1 < 5) ∧
    (selectByte (byteSel s c) = .latch ↔ s.st = .accumulatingFrame ∧ s.len.toNat + 1 = 5) ∧
    (selectByte (byteSel s c) = .body ↔ s.st = .accumulatingFrame ∧
      ∃ v, s.tgt = some v ∧ 6 ≤ s.len.toNat + 1 ∧ s.len.toNat + 1 < v.toNat) ∧
    (selectByte (byteSel s c) = .complete ↔ s.st = .accumulatingFrame ∧
      ∃ v, s.tgt = some v ∧ s.len.toNat + 1 = v.toNat)

/-! The decoder's operations. -/

/-- R112: a frame with a wrong discriminator, of any length, is dropped; dropping changes nothing. -/
def Obligations.DropOperation : Prop :=
  (∀ short src typ s, exec (.dDrop short src typ) s = .next s) ∧
  ∀ n src typ, selectFrame (frameSel n src typ) = .drop ↔ src ≠ 3 ∨ typ ≠ 0

/-- R114: a telemetry frame of fewer than 35 bytes sets the sticky mark and emits `Fault`; nothing else. -/
def Obligations.ShortOperation : Prop :=
  (∀ s n, s.frameLen = some n → exec .dShort s =
    .next { s with faultShort := true, output := s.output ++ [.fault .shortTelemetryFrame n] }) ∧
  ∀ n src typ, selectFrame (frameSel n src typ) = .short ↔ src = 3 ∧ typ = 0 ∧ n.toNat < 35

/-- R113: a telemetry frame of 35 bytes or more is unpacked into the record, which is then delivered or
discarded by `sink_en`; bytes from index 35 on take no part. -/
def Obligations.TelemetryOperation : Prop :=
  (∀ s n frame, s.frameLen = some n → 35 ≤ n.toNat → Memory.slice s.buf 0 n.toNat = some frame →
    (s.sinkEn = false → ∃ d, d.regs? = some (recordOf frame) ∧ exec .dTelem s = .next { s with draft := d }) ∧
    (s.sinkEn = true → ∀ name label, s.devName = some name → s.tempLabel = some label →
      ∃ d, d.regs? = some (recordOf frame) ∧ exec .dTelem s = .next { s with
        draft := d
        regs := some (recordOf frame)
        output := s.output ++ [.notify ⟨recordOf frame, name, label⟩] })) ∧
  ∀ n src typ, selectFrame (frameSel n src typ) = .telem ↔ src = 3 ∧ typ = 0 ∧ 35 ≤ n.toNat

/-- R130: with a consumer the record is copied to `REC`, all twelve fields, and the consumer is notified once. -/
def Obligations.NotifyOperation : Prop :=
  (∀ s, s.sinkEn = true → deliver s = exec .dNotify s) ∧
  ∀ s r name label, s.draft.regs? = some r → s.draft.devName = some name → s.draft.tempLabel = some label →
    exec .dNotify s = .next { s with regs := some r, output := s.output ++ [.notify ⟨r, name, label⟩] }

/-- R131: with no consumer the record is discarded; nothing changes. -/
def Obligations.DiscardRecordOperation : Prop :=
  (∀ s, exec .dDiscard s = .next s) ∧ ∀ s, s.sinkEn = false → deliver s = exec .dDiscard s

/-- R116, R122, R123, R127: the undivided two-byte fields, little-endian, each into its own field of the record. -/
def Obligations.WordFieldOperations : Prop :=
  ∀ s lo hi,
    (TwoBytesAt s 7 lo hi → ∃ v, v.toNat = lo.toNat + 256 * hi.toNat ∧
      exec .xChgMode s = .next { s with draft := { s.draft with chgMode := some v } }) ∧
    (TwoBytesAt s 21 lo hi → ∃ v, v.toNat = lo.toNat + 256 * hi.toNat ∧
      exec .xChgPower s = .next { s with draft := { s.draft with chgPower := some v } }) ∧
    (TwoBytesAt s 23 lo hi → ∃ v, v.toNat = lo.toNat + 256 * hi.toNat ∧
      exec .xLoadPower s = .next { s with draft := { s.draft with loadPower := some v } }) ∧
    (TwoBytesAt s 33 lo hi → ∃ v, v.toNat = lo.toNat + 256 * hi.toNat ∧
      exec .xCo2Gram s = .next { s with draft := { s.draft with co2Gram := some v } })

/-- R117 to R121: the divided fields; the register holds the undivided word and the field's value is a tenth. -/
def Obligations.TenthsFieldOperations : Prop :=
  (∀ s lo hi,
    (TwoBytesAt s 9 lo hi → ∃ v, v.toNat = lo.toNat + 256 * hi.toNat ∧
      exec .xPvVolt s = .next { s with draft := { s.draft with pvVolt := some v } }) ∧
    (TwoBytesAt s 11 lo hi → ∃ v, v.toNat = lo.toNat + 256 * hi.toNat ∧
      exec .xBatVolt s = .next { s with draft := { s.draft with batVolt := some v } }) ∧
    (TwoBytesAt s 13 lo hi → ∃ v, v.toNat = lo.toNat + 256 * hi.toNat ∧
      exec .xChgCur s = .next { s with draft := { s.draft with chgCur := some v } }) ∧
    (TwoBytesAt s 17 lo hi → ∃ v, v.toNat = lo.toNat + 256 * hi.toNat ∧
      exec .xLoadVolt s = .next { s with draft := { s.draft with loadVolt := some v } }) ∧
    (TwoBytesAt s 19 lo hi → ∃ v, v.toNat = lo.toNat + 256 * hi.toNat ∧
      exec .xLoadCur s = .next { s with draft := { s.draft with loadCur := some v } })) ∧
  ∀ r, fieldValue r .pvVolt = (r.pvVolt.toNat : Rat) / 10 ∧ fieldValue r .batVolt = (r.batVolt.toNat : Rat) / 10 ∧
    fieldValue r .chgCur = (r.chgCur.toNat : Rat) / 10 ∧ fieldValue r .loadVolt = (r.loadVolt.toNat : Rat) / 10 ∧
    fieldValue r .loadCur = (r.loadCur.toNat : Rat) / 10

/-- R124, R126: the raw bytes, unsigned and unclamped. -/
def Obligations.ByteFieldOperations : Prop :=
  ∀ s b,
    (OneByteAt s 25 b → exec .xExtTemp s = .next { s with draft := { s.draft with extTemp := some b } }) ∧
    (OneByteAt s 29 b → exec .xSoc s = .next { s with draft := { s.draft with soc := some b } })

/-- R125: `raw - 256` from 200 on, else `raw`, as a signed number. -/
def Obligations.SignedTemperatureOperation : Prop :=
  ∀ s b, OneByteAt s 27 b → ∃ v, exec .xIntTemp s = .next { s with draft := { s.draft with intTemp := some v } } ∧
    v.toInt = (if 200 ≤ b.toNat then (b.toNat : Int) - 256 else b.toNat) ∧ -56 ≤ v.toInt ∧ v.toInt ≤ 199

/-- R128: the labels in force are copied as they are. -/
def Obligations.LabelsOperation : Prop :=
  ∀ s, exec .xLabels s = .next { s with draft := { s.draft with devName := s.devName, tempLabel := s.tempLabel } }

/-- R115, R66, R20: the value of a divided field is the exact rational with one fractional digit; that of any
other is the number its register holds, unsigned, but for `int_temp`, which is signed. -/
def Obligations.DividedValuesAreExact : Prop :=
  (∀ r f, fieldLayout f = .u16leDiv10 → fieldValue r f * 10 = (regRaw r f : Rat) ∧
    fieldValue r f = ((regRaw r f / 10 : Int) : Rat) + ((regRaw r f % 10 : Int) : Rat) / 10) ∧
  (∀ r f, fieldLayout f ≠ .u16leDiv10 → fieldValue r f = (regRaw r f : Rat)) ∧
  ∀ r : RegSet, fieldValue r .intTemp = (r.intTemp.toInt : Rat) ∧ fieldValue r .chgMode = (r.chgMode.toNat : Rat) ∧
    fieldValue r .chgPower = (r.chgPower.toNat : Rat) ∧ fieldValue r .loadPower = (r.loadPower.toNat : Rat) ∧
    fieldValue r .extTemp = (r.extTemp.toNat : Rat) ∧ fieldValue r .soc = (r.soc.toNat : Rat) ∧
    fieldValue r .co2Gram = (r.co2Gram.toNat : Rat) ∧ fieldValue r .pvVolt = (r.pvVolt.toNat : Rat) / 10 ∧
    fieldValue r .batVolt = (r.batVolt.toNat : Rat) / 10 ∧ fieldValue r .chgCur = (r.chgCur.toNat : Rat) / 10 ∧
    fieldValue r .loadVolt = (r.loadVolt.toNat : Rat) / 10 ∧ fieldValue r .loadCur = (r.loadCur.toNat : Rat) / 10

/-- R113: the thirteen extractions may be done in any order. -/
def Obligations.ExtractionOrderIsImmaterial : Prop :=
  ∀ (ops : List Instr) s t, ops.Perm fieldOps → inOrder (fieldOps.map exec) s = .next t → inOrder (ops.map exec) s = .next t

/-- R42, R43, R45: reads of the completed frame, and no value past its end. -/
def Obligations.FrameReads : Prop :=
  (∀ s i b, OneByteAt s i b → memRead1 i s = .ok b) ∧
  (∀ s i lo hi, TwoBytesAt s i lo hi → ∃ v, memRead2 i s = .ok v ∧ v.toNat = lo.toNat + 256 * hi.toNat) ∧
  ∀ s n i, s.frameLen = some n → n.toNat ≤ i → memRead1 i s = .error .frameIndex

/-- R47, R70 c: bytes at indices no rule reads may hold anything: the outcome differs in them alone. -/
def Obligations.UnreadBytesDoNotMatter : Prop :=
  ∀ s m, (∀ i ∈ readIndices, Memory.read s.buf i = Memory.read m i) →
    SameOutcome (fun a b => b = { a with buf := m }) (decodeFrame s) (decodeFrame { s with buf := m })

/-! The whole step. -/

/-- R9: a step performs the operation its next input event decodes to, the event being taken; with no
event left it changes nothing (the model's choice, log entry 2). -/
def Obligations.StepRunsTheDecodedEvent : Prop :=
  (∀ s e rest i, s.input = e :: rest → decode (.host e) = .instr i →
    step s = exec i { s with input := rest }) ∧
  ∀ s, s.input = [] → step s = .next s

/-- R15: every step keeps the invariants. -/
def Obligations.StepKeepsInvariant : Prop := ∀ s t, StateInv s → step s = .next t → StateInv t

/-- R98, R140, R196 b: a step never faults, and is refused only where a record would be delivered without labels. -/
def Obligations.StepStopsOnlyForLabels : Prop :=
  ∀ s, StateInv s → (∃ t, step s = .next t) ∨ step s = .refused .labelsNotSet ∧ ¬ DeliveryReady s

/-- R98, R146: once a delivery has what it needs, every byte and every chunk runs to its end, whatever the bytes. -/
def Obligations.AnyStreamRuns : Prop :=
  ∀ s, StateInv s → DeliveryReady s → (∀ c, ∃ t, exec (.hByte c) s = .next t) ∧
    ∀ chunk, ∃ t, exec (.hFeed chunk) s = .next t ∧ StateInv t ∧ DeliveryReady t

/-- R196 b: a telemetry record that would be delivered while the labels hold no value is refused. -/
def Obligations.NoDeliveryWithoutLabels : Prop :=
  ∀ s c v data, StateInv s → s.st = .accumulatingFrame → s.tgt = some v → s.len.toNat + 1 = v.toNat →
    s.data = some data → byteAt (data ++ [c]) 2 = 3 → byteAt (data ++ [c]) 3 = 0 → 35 ≤ v.toNat →
    s.sinkEn = true → ¬ LabelsSet s → exec (.hByte c) s = .refused .labelsNotSet

/-- R9, R49, R111, R171: a step only adds events, at most one `Frame` and after it at most one `Notify` or `Fault`. -/
def Obligations.StepEventsAreOrdered : Prop :=
  ∀ s t, step s = .next t → ∃ events, t.output = s.output ++ events ∧ StepEvents events

/-- R97, R47: every frame emitted has the length its own fifth byte declares. -/
def Obligations.FramesHaveDeclaredLength : Prop :=
  ∀ s t f, StateInv s → step s = .next t → f ∈ framesOf (t.output.drop s.output.length) →
    f.length = 6 + (byteAt f 4).toNat

/-- R40: a byte changes the buffer at most at index `len`, and only while a frame is in progress. -/
def Obligations.BytesAreStoredOnlyAtLen : Prop :=
  ∀ s c t i, exec (.hByte c) s = .next t → s.st = .awaitingStart ∨ i ≠ s.len.toNat →
    Memory.read t.buf i = Memory.read s.buf i

/-- R21, R203: the record registers change only by a reset or all together, to the record the step delivers. -/
def Obligations.RecordRegistersChangeTogether : Prop :=
  ∀ s t, step s = .next t → t.regs = s.regs ∨ s.input.head? = some .reset ∧ t.regs = none ∨
    ∃ f r, t.output = s.output ++ [.frame f, .notify r] ∧ t.regs = some r.regs

/-- R18: `rec_valid` is 0 from reset until a record is delivered and 1 from then until a reset; the consumer's
read of `REC` is refused while it is 0 and answers the registers while it is 1. -/
def Obligations.ConsumerReadsTheRecord : Prop :=
  State.reset.recValid = false ∧
  (∀ s, s.recValid = false → readRec s = .error .recordNotValid) ∧
  (∀ s, s.recValid = true → ∃ r, s.regs = some r ∧ readRec s = .ok r) ∧
  (∀ s t, exec .dNotify s = .next t → t.recValid = true) ∧
  ∀ s t, step s = .next t →
    (s.recValid = false → t.recValid = true → ∃ f r, t.output = s.output ++ [.frame f, .notify r]) ∧
    (s.recValid = true → t.recValid = false → s.input.head? = some .reset)

/-- R165, R17: the mark is set exactly by a step that emits `Fault`, for a telemetry frame of 6 to 34 bytes. -/
def Obligations.FaultMarksShortTelemetry : Prop :=
  ∀ s t, StateInv s → step s = .next t →
    (NoFaultRecorded s → ¬ NoFaultRecorded t → ∃ f n, t.output = s.output ++
      [.frame f, .fault .shortTelemetryFrame n]) ∧
    ∀ f n, t.output = s.output ++ [.frame f, .fault .shortTelemetryFrame n] →
      t.faultShort = true ∧ t.st = .awaitingStart ∧ t.regs = s.regs ∧ f.length = n.toNat ∧ 6 ≤ n.toNat ∧
        n.toNat < 35 ∧ byteAt f 2 = 3 ∧ byteAt f 3 = 0

/-- R161, R162, R164: A_DISCARD (the first half of X1), D_DROP (X2) and D_DISCARD (X4) change nothing. The second
half of X1, an implausible length byte, has the effect of a long accumulation and is not meant here: that byte
is stored and sets the target like any other (`Obligations.LatchOperation`). -/
def Obligations.QuietConditionsHaveNoEffect : Prop :=
  ∀ i s x, conditionOf i = some x → x ≠ .shortTelemetryFrame → exec i s = .next s

/-! The assembler as a whole. -/

/-- R102: inside a frame every byte is data, the sentinel's value among them: before the target it is stored and
the frame goes on, and at the target it is the frame's last byte and starts no other. -/
def Obligations.SentinelInsideFrameIsData : Prop :=
  ∀ s c, StateInv s → s.st = .accumulatingFrame →
    ((∀ v, s.tgt = some v → s.len.toNat + 1 < v.toNat) →
      ∃ t, exec (.hByte c) s = .next t ∧ t.st = .accumulatingFrame ∧ t.len.toNat = s.len.toNat + 1 ∧
        Memory.read t.buf s.len.toNat = some c ∧ t.output = s.output) ∧
    ((∃ v, s.tgt = some v ∧ s.len.toNat + 1 = v.toNat) → DeliveryReady s →
      ∃ t data, exec (.hByte c) s = .next t ∧ t.st = .awaitingStart ∧ s.data = some data ∧
        framesOf (t.output.drop s.output.length) = [data ++ [c]])

/-- R99: `AccumulatingFrame` is left only by completing the frame at its target or by a reset. -/
def Obligations.FrameEndsOnlyAtTarget : Prop :=
  ∀ s t, StateInv s → s.st = .accumulatingFrame → step s = .next t → t.st = .awaitingStart →
    s.input.head? = some .reset ∨
      ∃ c v, s.input.head? = some (.byte c) ∧ s.tgt = some v ∧ s.len.toNat + 1 = v.toNat ∧ t.len = 0 ∧ t.tgt = none

/-- R92, R197: while idle, a run of bytes without the sentinel leaves the state unchanged, however long. -/
def Obligations.NoiseIsDiscarded : Prop :=
  ∀ s chunk, s.st = .awaitingStart → (∀ c ∈ chunk, c ≠ 0xAA) → exec (.hFeed chunk) s = .next s

/-- R100: any partition of a byte sequence into chunks gives the same outcome as one chunk. -/
def Obligations.FragmentationInvariance : Prop :=
  ∀ (chunks : List (List Byte)) s, exec (.hFeed chunks.flatten) s =
    chunks.foldl (fun o chunk => andThen o (exec (.hFeed chunk))) (.next s)

/-- R145, R9: feeding a chunk is the same as stepping through its bytes as input events (log entries 1, 18). -/
def Obligations.FeedIsTheRunOfItsBytes : Prop :=
  ∀ (chunk : List Byte) (rest : List Event) (s : State),
    core.run chunk.length { s with input := chunk.map .byte ++ rest } = exec (.hFeed chunk) { s with input := rest }

/-- R101: from the idle state, frames fed one after another, with any bytes but 0xAA between them, give each its
`Frame` and then the events of its own fate, in order, and leave the block idle. -/
def Obligations.ConcatenatedFramesComeOutInOrder : Prop :=
  ∀ s (frames : List (List Byte × FrameDesc)) last, StateInv s → s.st = .awaitingStart → DeliveryReady s →
    (∀ p ∈ frames, p.2.body.length ≤ 255 ∧ ∀ c ∈ p.1, c ≠ 0xAA) → (∀ c ∈ last, c ≠ 0xAA) →
    ∃ t, exec (.hFeed (frames.flatMap (fun p => p.1 ++ frameWire p.2) ++ last)) s = .next t ∧
      t.st = .awaitingStart ∧ t.len = 0 ∧ t.tgt = none ∧
      t.output = s.output ++ frames.flatMap fun p =>
        .frame (frameData p.2) :: fateEvents (frameFate s.sinkEn s.labels? (frameData p.2))

/-- R104: a chunk of `k` bytes emits at most `1 + (k - 1) / 7` frames, and none for `k = 0`. -/
def Obligations.FramesPerChunk : Prop :=
  ∀ s chunk t, StateInv s → exec (.hFeed chunk) s = .next t →
    (framesOf (t.output.drop s.output.length)).length ≤
      if chunk.length = 0 then 0 else 1 + (chunk.length - 1) / 7

/-- R172: from the idle state no record is delivered before the 36th byte. -/
def Obligations.DeliveriesAreSpaced : Prop :=
  ∀ s chunk t, StateInv s → s.st = .awaitingStart → chunk.length < 36 → exec (.hFeed chunk) s = .next t →
    notifiesOf (t.output.drop s.output.length) = []

/-! What no rule can see. -/

/-- R14, R25 a, R52: bytes left in the buffer at indices from `len` on are never observed. -/
def Obligations.DeadBytesAreUnobservable : Prop :=
  ∀ a b, StateInv a → StateInv b → SameLive a b → SameOutcome SameLive (step a) (step b)

/-- R19, R128: the block never looks into a label: renaming all labels renames them in the outcome. -/
def Obligations.LabelsAreOpaque : Prop :=
  ∀ g s, SameOutcome (fun a b => b = renameLabels g a) (step s) (step (renameLabels g s))

/-! Encoding. -/

/-- R75, R76: the words of a well-formed operation decode to it; those of the macro H_FEED to its bytes. -/
def Obligations.DecodeOfEncode : Prop :=
  ∀ i : Instr, i.wellFormed = true → (encode i).map decode = i.expand.map .instr

/-- R75, R67, R68: BYTE, FRAME and DELIVER words written out from the operation map decode to their operations.
The model's choice, log entry 14: a FIELD word, which R75 gives no selector of its own, carries the row's `index`
(R76) beside D_TELEM's `fsel`, and one with another index or `fsel` is rejected by name. -/
def Obligations.WordsOfTheMapDecode : Prop :=
  decode (.byte 0x0AA) = .instr .aStart ∧ decode (.byte 0x0A9) = .instr (.aDiscard 0xA9) ∧
    decode (.byte 0x5FF) = .instr (.aLatch 0xFF) ∧ decode (.frame 0x00300) = .instr .dTelem ∧
    decode (.frame 0x10300) = .instr .dShort ∧ decode (.frame 0x10301) = .instr (.dDrop true 3 1) ∧
    decode (.field 0x00300 (some 27)) = .instr .xIntTemp ∧ decode (.field 0x00300 (some 15)) = .reject (.noFieldAt 15) ∧
    decode (.field 0x10300 (some 27)) = .reject .fieldNotSelected ∧ decode (.deliver 1) = .instr .dNotify

/-! The environment (R4 d). -/

/-- R150, R145: however the driver cuts the stream into reads, the block sees only the bytes read while some were
waiting; a failed call of the loop ends it in recovery, and only that. -/
def Obligations.DriverChunkingIsInvisible : Prop :=
  ∀ rounds closing d d', drain rounds closing d = .next d' →
    exec (.hFeed (drained rounds).flatten) d.block = .next d'.block ∧ d'.pollTimer = d.pollTimer ∧
    d'.mode = if drainFails rounds then .recovering else d.mode

/-- R150: an invocation without transport failure sends the poll request exactly if a second has passed since
the last one, once, and then remembers the time; so no other follows within the second. -/
def Obligations.DriverPollsOncePerSecond : Prop :=
  ∀ (v : Invocation) d d', d.mode = .normal → drainFails v.rounds = false → v.writing = .ok () →
    invoke v d = .next d' →
    (d'.actions.drop d.actions.length).count (.write .pollRequest (.ok ())) =
      (if 1 ≤ v.now - d.pollTimer then 1 else 0) ∧
    d'.pollTimer = (if 1 ≤ v.now - d.pollTimer then v.now else d.pollTimer) ∧ d'.mode = .normal

/-- R151, R163: an attempt that yields no byte leaves the block as it is and the driver recovering; one that
yields bytes ends the regime, and a frame in progress is not reset. -/
def Obligations.RecoveryDoesNotResetTheBlock : Prop :=
  ∀ p d d', d.mode = .recovering → attempt p d = .next d' →
    ((∀ first more, p ≠ .bytes first more) → d'.block = d.block ∧ d'.mode = .recovering) ∧
    ∀ first more, p = .bytes first more → d'.mode = .normal ∧
      exec (.hFeed (if Config.probeBytesFed then first :: more else [])) d.block = .next d'.block

/-- R151: an attempt that yields no byte closes the transport again before the next try and is followed by the
back-off delay. That the close comes first is the model's choice, log entry 19. -/
def Obligations.FailedAttemptClosesAndBacksOff : Prop :=
  ∀ closing d, d.mode = .recovering →
    attempt (.openFailed closing) d = .next (d.act [.open .failed, .close closing, .backoff]) ∧
    attempt (.readFailed closing) d =
      .next (d.act [.open (.ok ()), .read Config.probeReadMax .failed, .close closing, .backoff]) ∧
    attempt (.noBytes closing) d =
      .next (d.act [.open (.ok ()), .read Config.probeReadMax (.ok []), .close closing, .backoff])

/-- R163: recovery blocks the calling context: until it ends no invocation begins, and no command either (the model's
reading, log entry 23). -/
def Obligations.RecoveryBlocksTheCaller : Prop :=
  ∀ d, d.mode = .recovering → (∀ v, invoke v d = .next d) ∧ ∀ on writing closing, sendCommand on writing closing d = d

/-- R150 to R152: in the normal regime an invocation leads to recovery exactly if a transport call of it fails, be
it `bytes_waiting`, a read or the poll's write; the close comes last, and whatever it answers the driver recovers
(the model's reading of a close that fails, log entry 21). -/
def Obligations.TransportFailureStartsRecovery : Prop :=
  ∀ (v : Invocation) d d', d.mode = .normal → invoke v d = .next d' →
    (d'.mode = .recovering ↔
      drainFails v.rounds = true ∨ 1 ≤ v.now - d.pollTimer ∧ v.writing = .failed) ∧
    (d'.mode = .recovering → d'.actions.getLast? = some (.close v.closing))

/-- R151, R163: the blocking regime ends only by an attempt whose read yields a byte; until then the block is as it was. -/
def Obligations.RecoveryEndsOnlyWithAByte : Prop :=
  ∀ probes d d', d.mode = .recovering → recover probes d = .next d' →
    (d'.mode = .normal ↔ ∃ first more, Probe.bytes first more ∈ probes) ∧
    (d'.mode = .recovering → d'.block = d.block ∧ d'.pollTimer = d.pollTimer)
end

