-- ==== Sys2Proof/Laws/State.lean ====
section
/-! SUPPORT. Each state update, field by field: one lemma per field per update. -/

namespace Sys2Proof.Machine

@[simp] theorem State.st_setSt (s : State) (v : AsmState) : (s.setSt v).st = v := rfl
@[simp] theorem State.len_setSt (s : State) (v : AsmState) : (s.setSt v).len = s.len := rfl
@[simp] theorem State.tgt_setSt (s : State) (v : AsmState) : (s.setSt v).tgt = s.tgt := rfl
@[simp] theorem State.buf_setSt (s : State) (v : AsmState) : (s.setSt v).buf = s.buf := rfl
@[simp] theorem State.sinkEn_setSt (s : State) (v : AsmState) : (s.setSt v).sinkEn = s.sinkEn := rfl
@[simp] theorem State.faultShort_setSt (s : State) (v : AsmState) : (s.setSt v).faultShort = s.faultShort := rfl
@[simp] theorem State.regs_setSt (s : State) (v : AsmState) : (s.setSt v).regs = s.regs := rfl
@[simp] theorem State.devName_setSt (s : State) (v : AsmState) : (s.setSt v).devName = s.devName := rfl
@[simp] theorem State.tempLabel_setSt (s : State) (v : AsmState) : (s.setSt v).tempLabel = s.tempLabel := rfl
@[simp] theorem State.frameLen_setSt (s : State) (v : AsmState) : (s.setSt v).frameLen = s.frameLen := rfl
@[simp] theorem State.draft_setSt (s : State) (v : AsmState) : (s.setSt v).draft = s.draft := rfl
@[simp] theorem State.input_setSt (s : State) (v : AsmState) : (s.setSt v).input = s.input := rfl
@[simp] theorem State.output_setSt (s : State) (v : AsmState) : (s.setSt v).output = s.output := rfl

@[simp] theorem State.st_setLen (s : State) (v : Cnt) : (s.setLen v).st = s.st := rfl
@[simp] theorem State.len_setLen (s : State) (v : Cnt) : (s.setLen v).len = v := rfl
@[simp] theorem State.tgt_setLen (s : State) (v : Cnt) : (s.setLen v).tgt = s.tgt := rfl
@[simp] theorem State.buf_setLen (s : State) (v : Cnt) : (s.setLen v).buf = s.buf := rfl
@[simp] theorem State.sinkEn_setLen (s : State) (v : Cnt) : (s.setLen v).sinkEn = s.sinkEn := rfl
@[simp] theorem State.faultShort_setLen (s : State) (v : Cnt) : (s.setLen v).faultShort = s.faultShort := rfl
@[simp] theorem State.regs_setLen (s : State) (v : Cnt) : (s.setLen v).regs = s.regs := rfl
@[simp] theorem State.devName_setLen (s : State) (v : Cnt) : (s.setLen v).devName = s.devName := rfl
@[simp] theorem State.tempLabel_setLen (s : State) (v : Cnt) : (s.setLen v).tempLabel = s.tempLabel := rfl
@[simp] theorem State.frameLen_setLen (s : State) (v : Cnt) : (s.setLen v).frameLen = s.frameLen := rfl
@[simp] theorem State.draft_setLen (s : State) (v : Cnt) : (s.setLen v).draft = s.draft := rfl
@[simp] theorem State.input_setLen (s : State) (v : Cnt) : (s.setLen v).input = s.input := rfl
@[simp] theorem State.output_setLen (s : State) (v : Cnt) : (s.setLen v).output = s.output := rfl

@[simp] theorem State.st_setTgt (s : State) (v : Option Cnt) : (s.setTgt v).st = s.st := rfl
@[simp] theorem State.len_setTgt (s : State) (v : Option Cnt) : (s.setTgt v).len = s.len := rfl
@[simp] theorem State.tgt_setTgt (s : State) (v : Option Cnt) : (s.setTgt v).tgt = v := rfl
@[simp] theorem State.buf_setTgt (s : State) (v : Option Cnt) : (s.setTgt v).buf = s.buf := rfl
@[simp] theorem State.sinkEn_setTgt (s : State) (v : Option Cnt) : (s.setTgt v).sinkEn = s.sinkEn := rfl
@[simp] theorem State.faultShort_setTgt (s : State) (v : Option Cnt) : (s.setTgt v).faultShort = s.faultShort := rfl
@[simp] theorem State.regs_setTgt (s : State) (v : Option Cnt) : (s.setTgt v).regs = s.regs := rfl
@[simp] theorem State.devName_setTgt (s : State) (v : Option Cnt) : (s.setTgt v).devName = s.devName := rfl
@[simp] theorem State.tempLabel_setTgt (s : State) (v : Option Cnt) : (s.setTgt v).tempLabel = s.tempLabel := rfl
@[simp] theorem State.frameLen_setTgt (s : State) (v : Option Cnt) : (s.setTgt v).frameLen = s.frameLen := rfl
@[simp] theorem State.draft_setTgt (s : State) (v : Option Cnt) : (s.setTgt v).draft = s.draft := rfl
@[simp] theorem State.input_setTgt (s : State) (v : Option Cnt) : (s.setTgt v).input = s.input := rfl
@[simp] theorem State.output_setTgt (s : State) (v : Option Cnt) : (s.setTgt v).output = s.output := rfl

@[simp] theorem State.st_setBuf (s : State) (v : Memory) : (s.setBuf v).st = s.st := rfl
@[simp] theorem State.len_setBuf (s : State) (v : Memory) : (s.setBuf v).len = s.len := rfl
@[simp] theorem State.tgt_setBuf (s : State) (v : Memory) : (s.setBuf v).tgt = s.tgt := rfl
@[simp] theorem State.buf_setBuf (s : State) (v : Memory) : (s.setBuf v).buf = v := rfl
@[simp] theorem State.sinkEn_setBuf (s : State) (v : Memory) : (s.setBuf v).sinkEn = s.sinkEn := rfl
@[simp] theorem State.faultShort_setBuf (s : State) (v : Memory) : (s.setBuf v).faultShort = s.faultShort := rfl
@[simp] theorem State.regs_setBuf (s : State) (v : Memory) : (s.setBuf v).regs = s.regs := rfl
@[simp] theorem State.devName_setBuf (s : State) (v : Memory) : (s.setBuf v).devName = s.devName := rfl
@[simp] theorem State.tempLabel_setBuf (s : State) (v : Memory) : (s.setBuf v).tempLabel = s.tempLabel := rfl
@[simp] theorem State.frameLen_setBuf (s : State) (v : Memory) : (s.setBuf v).frameLen = s.frameLen := rfl
@[simp] theorem State.draft_setBuf (s : State) (v : Memory) : (s.setBuf v).draft = s.draft := rfl
@[simp] theorem State.input_setBuf (s : State) (v : Memory) : (s.setBuf v).input = s.input := rfl
@[simp] theorem State.output_setBuf (s : State) (v : Memory) : (s.setBuf v).output = s.output := rfl

@[simp] theorem State.st_setSinkEn (s : State) (v : Bool) : (s.setSinkEn v).st = s.st := rfl
@[simp] theorem State.len_setSinkEn (s : State) (v : Bool) : (s.setSinkEn v).len = s.len := rfl
@[simp] theorem State.tgt_setSinkEn (s : State) (v : Bool) : (s.setSinkEn v).tgt = s.tgt := rfl
@[simp] theorem State.buf_setSinkEn (s : State) (v : Bool) : (s.setSinkEn v).buf = s.buf := rfl
@[simp] theorem State.sinkEn_setSinkEn (s : State) (v : Bool) : (s.setSinkEn v).sinkEn = v := rfl
@[simp] theorem State.faultShort_setSinkEn (s : State) (v : Bool) : (s.setSinkEn v).faultShort = s.faultShort := rfl
@[simp] theorem State.regs_setSinkEn (s : State) (v : Bool) : (s.setSinkEn v).regs = s.regs := rfl
@[simp] theorem State.devName_setSinkEn (s : State) (v : Bool) : (s.setSinkEn v).devName = s.devName := rfl
@[simp] theorem State.tempLabel_setSinkEn (s : State) (v : Bool) : (s.setSinkEn v).tempLabel = s.tempLabel := rfl
@[simp] theorem State.frameLen_setSinkEn (s : State) (v : Bool) : (s.setSinkEn v).frameLen = s.frameLen := rfl
@[simp] theorem State.draft_setSinkEn (s : State) (v : Bool) : (s.setSinkEn v).draft = s.draft := rfl
@[simp] theorem State.input_setSinkEn (s : State) (v : Bool) : (s.setSinkEn v).input = s.input := rfl
@[simp] theorem State.output_setSinkEn (s : State) (v : Bool) : (s.setSinkEn v).output = s.output := rfl

@[simp] theorem State.st_setFaultShort (s : State) (v : Bool) : (s.setFaultShort v).st = s.st := rfl
@[simp] theorem State.len_setFaultShort (s : State) (v : Bool) : (s.setFaultShort v).len = s.len := rfl
@[simp] theorem State.tgt_setFaultShort (s : State) (v : Bool) : (s.setFaultShort v).tgt = s.tgt := rfl
@[simp] theorem State.buf_setFaultShort (s : State) (v : Bool) : (s.setFaultShort v).buf = s.buf := rfl
@[simp] theorem State.sinkEn_setFaultShort (s : State) (v : Bool) : (s.setFaultShort v).sinkEn = s.sinkEn := rfl
@[simp] theorem State.faultShort_setFaultShort (s : State) (v : Bool) : (s.setFaultShort v).faultShort = v := rfl
@[simp] theorem State.regs_setFaultShort (s : State) (v : Bool) : (s.setFaultShort v).regs = s.regs := rfl
@[simp] theorem State.devName_setFaultShort (s : State) (v : Bool) : (s.setFaultShort v).devName = s.devName := rfl
@[simp] theorem State.tempLabel_setFaultShort (s : State) (v : Bool) : (s.setFaultShort v).tempLabel = s.tempLabel := rfl
@[simp] theorem State.frameLen_setFaultShort (s : State) (v : Bool) : (s.setFaultShort v).frameLen = s.frameLen := rfl
@[simp] theorem State.draft_setFaultShort (s : State) (v : Bool) : (s.setFaultShort v).draft = s.draft := rfl
@[simp] theorem State.input_setFaultShort (s : State) (v : Bool) : (s.setFaultShort v).input = s.input := rfl
@[simp] theorem State.output_setFaultShort (s : State) (v : Bool) : (s.setFaultShort v).output = s.output := rfl

@[simp] theorem State.st_setRegs (s : State) (v : Option RegSet) : (s.setRegs v).st = s.st := rfl
@[simp] theorem State.len_setRegs (s : State) (v : Option RegSet) : (s.setRegs v).len = s.len := rfl
@[simp] theorem State.tgt_setRegs (s : State) (v : Option RegSet) : (s.setRegs v).tgt = s.tgt := rfl
@[simp] theorem State.buf_setRegs (s : State) (v : Option RegSet) : (s.setRegs v).buf = s.buf := rfl
@[simp] theorem State.sinkEn_setRegs (s : State) (v : Option RegSet) : (s.setRegs v).sinkEn = s.sinkEn := rfl
@[simp] theorem State.faultShort_setRegs (s : State) (v : Option RegSet) : (s.setRegs v).faultShort = s.faultShort := rfl
@[simp] theorem State.regs_setRegs (s : State) (v : Option RegSet) : (s.setRegs v).regs = v := rfl
@[simp] theorem State.devName_setRegs (s : State) (v : Option RegSet) : (s.setRegs v).devName = s.devName := rfl
@[simp] theorem State.tempLabel_setRegs (s : State) (v : Option RegSet) : (s.setRegs v).tempLabel = s.tempLabel := rfl
@[simp] theorem State.frameLen_setRegs (s : State) (v : Option RegSet) : (s.setRegs v).frameLen = s.frameLen := rfl
@[simp] theorem State.draft_setRegs (s : State) (v : Option RegSet) : (s.setRegs v).draft = s.draft := rfl
@[simp] theorem State.input_setRegs (s : State) (v : Option RegSet) : (s.setRegs v).input = s.input := rfl
@[simp] theorem State.output_setRegs (s : State) (v : Option RegSet) : (s.setRegs v).output = s.output := rfl

@[simp] theorem State.st_setDevName (s : State) (v : Option Label) : (s.setDevName v).st = s.st := rfl
@[simp] theorem State.len_setDevName (s : State) (v : Option Label) : (s.setDevName v).len = s.len := rfl
@[simp] theorem State.tgt_setDevName (s : State) (v : Option Label) : (s.setDevName v).tgt = s.tgt := rfl
@[simp] theorem State.buf_setDevName (s : State) (v : Option Label) : (s.setDevName v).buf = s.buf := rfl
@[simp] theorem State.sinkEn_setDevName (s : State) (v : Option Label) : (s.setDevName v).sinkEn = s.sinkEn := rfl
@[simp] theorem State.faultShort_setDevName (s : State) (v : Option Label) : (s.setDevName v).faultShort = s.faultShort := rfl
@[simp] theorem State.regs_setDevName (s : State) (v : Option Label) : (s.setDevName v).regs = s.regs := rfl
@[simp] theorem State.devName_setDevName (s : State) (v : Option Label) : (s.setDevName v).devName = v := rfl
@[simp] theorem State.tempLabel_setDevName (s : State) (v : Option Label) : (s.setDevName v).tempLabel = s.tempLabel := rfl
@[simp] theorem State.frameLen_setDevName (s : State) (v : Option Label) : (s.setDevName v).frameLen = s.frameLen := rfl
@[simp] theorem State.draft_setDevName (s : State) (v : Option Label) : (s.setDevName v).draft = s.draft := rfl
@[simp] theorem State.input_setDevName (s : State) (v : Option Label) : (s.setDevName v).input = s.input := rfl
@[simp] theorem State.output_setDevName (s : State) (v : Option Label) : (s.setDevName v).output = s.output := rfl

@[simp] theorem State.st_setTempLabel (s : State) (v : Option Label) : (s.setTempLabel v).st = s.st := rfl
@[simp] theorem State.len_setTempLabel (s : State) (v : Option Label) : (s.setTempLabel v).len = s.len := rfl
@[simp] theorem State.tgt_setTempLabel (s : State) (v : Option Label) : (s.setTempLabel v).tgt = s.tgt := rfl
@[simp] theorem State.buf_setTempLabel (s : State) (v : Option Label) : (s.setTempLabel v).buf = s.buf := rfl
@[simp] theorem State.sinkEn_setTempLabel (s : State) (v : Option Label) : (s.setTempLabel v).sinkEn = s.sinkEn := rfl
@[simp] theorem State.faultShort_setTempLabel (s : State) (v : Option Label) : (s.setTempLabel v).faultShort = s.faultShort := rfl
@[simp] theorem State.regs_setTempLabel (s : State) (v : Option Label) : (s.setTempLabel v).regs = s.regs := rfl
@[simp] theorem State.devName_setTempLabel (s : State) (v : Option Label) : (s.setTempLabel v).devName = s.devName := rfl
@[simp] theorem State.tempLabel_setTempLabel (s : State) (v : Option Label) : (s.setTempLabel v).tempLabel = v := rfl
@[simp] theorem State.frameLen_setTempLabel (s : State) (v : Option Label) : (s.setTempLabel v).frameLen = s.frameLen := rfl
@[simp] theorem State.draft_setTempLabel (s : State) (v : Option Label) : (s.setTempLabel v).draft = s.draft := rfl
@[simp] theorem State.input_setTempLabel (s : State) (v : Option Label) : (s.setTempLabel v).input = s.input := rfl
@[simp] theorem State.output_setTempLabel (s : State) (v : Option Label) : (s.setTempLabel v).output = s.output := rfl

@[simp] theorem State.st_setFrameLen (s : State) (v : Option Cnt) : (s.setFrameLen v).st = s.st := rfl
@[simp] theorem State.len_setFrameLen (s : State) (v : Option Cnt) : (s.setFrameLen v).len = s.len := rfl
@[simp] theorem State.tgt_setFrameLen (s : State) (v : Option Cnt) : (s.setFrameLen v).tgt = s.tgt := rfl
@[simp] theorem State.buf_setFrameLen (s : State) (v : Option Cnt) : (s.setFrameLen v).buf = s.buf := rfl
@[simp] theorem State.sinkEn_setFrameLen (s : State) (v : Option Cnt) : (s.setFrameLen v).sinkEn = s.sinkEn := rfl
@[simp] theorem State.faultShort_setFrameLen (s : State) (v : Option Cnt) : (s.setFrameLen v).faultShort = s.faultShort := rfl
@[simp] theorem State.regs_setFrameLen (s : State) (v : Option Cnt) : (s.setFrameLen v).regs = s.regs := rfl
@[simp] theorem State.devName_setFrameLen (s : State) (v : Option Cnt) : (s.setFrameLen v).devName = s.devName := rfl
@[simp] theorem State.tempLabel_setFrameLen (s : State) (v : Option Cnt) : (s.setFrameLen v).tempLabel = s.tempLabel := rfl
@[simp] theorem State.frameLen_setFrameLen (s : State) (v : Option Cnt) : (s.setFrameLen v).frameLen = v := rfl
@[simp] theorem State.draft_setFrameLen (s : State) (v : Option Cnt) : (s.setFrameLen v).draft = s.draft := rfl
@[simp] theorem State.input_setFrameLen (s : State) (v : Option Cnt) : (s.setFrameLen v).input = s.input := rfl
@[simp] theorem State.output_setFrameLen (s : State) (v : Option Cnt) : (s.setFrameLen v).output = s.output := rfl

@[simp] theorem State.st_setDraft (s : State) (v : Draft) : (s.setDraft v).st = s.st := rfl
@[simp] theorem State.len_setDraft (s : State) (v : Draft) : (s.setDraft v).len = s.len := rfl
@[simp] theorem State.tgt_setDraft (s : State) (v : Draft) : (s.setDraft v).tgt = s.tgt := rfl
@[simp] theorem State.buf_setDraft (s : State) (v : Draft) : (s.setDraft v).buf = s.buf := rfl
@[simp] theorem State.sinkEn_setDraft (s : State) (v : Draft) : (s.setDraft v).sinkEn = s.sinkEn := rfl
@[simp] theorem State.faultShort_setDraft (s : State) (v : Draft) : (s.setDraft v).faultShort = s.faultShort := rfl
@[simp] theorem State.regs_setDraft (s : State) (v : Draft) : (s.setDraft v).regs = s.regs := rfl
@[simp] theorem State.devName_setDraft (s : State) (v : Draft) : (s.setDraft v).devName = s.devName := rfl
@[simp] theorem State.tempLabel_setDraft (s : State) (v : Draft) : (s.setDraft v).tempLabel = s.tempLabel := rfl
@[simp] theorem State.frameLen_setDraft (s : State) (v : Draft) : (s.setDraft v).frameLen = s.frameLen := rfl
@[simp] theorem State.draft_setDraft (s : State) (v : Draft) : (s.setDraft v).draft = v := rfl
@[simp] theorem State.input_setDraft (s : State) (v : Draft) : (s.setDraft v).input = s.input := rfl
@[simp] theorem State.output_setDraft (s : State) (v : Draft) : (s.setDraft v).output = s.output := rfl

@[simp] theorem State.st_setInput (s : State) (v : List Event) : (s.setInput v).st = s.st := rfl
@[simp] theorem State.len_setInput (s : State) (v : List Event) : (s.setInput v).len = s.len := rfl
@[simp] theorem State.tgt_setInput (s : State) (v : List Event) : (s.setInput v).tgt = s.tgt := rfl
@[simp] theorem State.buf_setInput (s : State) (v : List Event) : (s.setInput v).buf = s.buf := rfl
@[simp] theorem State.sinkEn_setInput (s : State) (v : List Event) : (s.setInput v).sinkEn = s.sinkEn := rfl
@[simp] theorem State.faultShort_setInput (s : State) (v : List Event) : (s.setInput v).faultShort = s.faultShort := rfl
@[simp] theorem State.regs_setInput (s : State) (v : List Event) : (s.setInput v).regs = s.regs := rfl
@[simp] theorem State.devName_setInput (s : State) (v : List Event) : (s.setInput v).devName = s.devName := rfl
@[simp] theorem State.tempLabel_setInput (s : State) (v : List Event) : (s.setInput v).tempLabel = s.tempLabel := rfl
@[simp] theorem State.frameLen_setInput (s : State) (v : List Event) : (s.setInput v).frameLen = s.frameLen := rfl
@[simp] theorem State.draft_setInput (s : State) (v : List Event) : (s.setInput v).draft = s.draft := rfl
@[simp] theorem State.input_setInput (s : State) (v : List Event) : (s.setInput v).input = v := rfl
@[simp] theorem State.output_setInput (s : State) (v : List Event) : (s.setInput v).output = s.output := rfl

@[simp] theorem State.st_setOutput (s : State) (v : List OutEvent) : (s.setOutput v).st = s.st := rfl
@[simp] theorem State.len_setOutput (s : State) (v : List OutEvent) : (s.setOutput v).len = s.len := rfl
@[simp] theorem State.tgt_setOutput (s : State) (v : List OutEvent) : (s.setOutput v).tgt = s.tgt := rfl
@[simp] theorem State.buf_setOutput (s : State) (v : List OutEvent) : (s.setOutput v).buf = s.buf := rfl
@[simp] theorem State.sinkEn_setOutput (s : State) (v : List OutEvent) : (s.setOutput v).sinkEn = s.sinkEn := rfl
@[simp] theorem State.faultShort_setOutput (s : State) (v : List OutEvent) : (s.setOutput v).faultShort = s.faultShort := rfl
@[simp] theorem State.regs_setOutput (s : State) (v : List OutEvent) : (s.setOutput v).regs = s.regs := rfl
@[simp] theorem State.devName_setOutput (s : State) (v : List OutEvent) : (s.setOutput v).devName = s.devName := rfl
@[simp] theorem State.tempLabel_setOutput (s : State) (v : List OutEvent) : (s.setOutput v).tempLabel = s.tempLabel := rfl
@[simp] theorem State.frameLen_setOutput (s : State) (v : List OutEvent) : (s.setOutput v).frameLen = s.frameLen := rfl
@[simp] theorem State.draft_setOutput (s : State) (v : List OutEvent) : (s.setOutput v).draft = s.draft := rfl
@[simp] theorem State.input_setOutput (s : State) (v : List OutEvent) : (s.setOutput v).input = s.input := rfl
@[simp] theorem State.output_setOutput (s : State) (v : List OutEvent) : (s.setOutput v).output = v := rfl

@[simp] theorem State.st_emit (s : State) (e : OutEvent) : (s.emit e).st = s.st := rfl
@[simp] theorem State.len_emit (s : State) (e : OutEvent) : (s.emit e).len = s.len := rfl
@[simp] theorem State.tgt_emit (s : State) (e : OutEvent) : (s.emit e).tgt = s.tgt := rfl
@[simp] theorem State.buf_emit (s : State) (e : OutEvent) : (s.emit e).buf = s.buf := rfl
@[simp] theorem State.sinkEn_emit (s : State) (e : OutEvent) : (s.emit e).sinkEn = s.sinkEn := rfl
@[simp] theorem State.faultShort_emit (s : State) (e : OutEvent) : (s.emit e).faultShort = s.faultShort := rfl
@[simp] theorem State.regs_emit (s : State) (e : OutEvent) : (s.emit e).regs = s.regs := rfl
@[simp] theorem State.devName_emit (s : State) (e : OutEvent) : (s.emit e).devName = s.devName := rfl
@[simp] theorem State.tempLabel_emit (s : State) (e : OutEvent) : (s.emit e).tempLabel = s.tempLabel := rfl
@[simp] theorem State.frameLen_emit (s : State) (e : OutEvent) : (s.emit e).frameLen = s.frameLen := rfl
@[simp] theorem State.draft_emit (s : State) (e : OutEvent) : (s.emit e).draft = s.draft := rfl
@[simp] theorem State.input_emit (s : State) (e : OutEvent) : (s.emit e).input = s.input := rfl
@[simp] theorem State.output_emit (s : State) (e : OutEvent) : (s.emit e).output = s.output ++ [e] := rfl

@[simp] theorem State.st_toIdle (s : State) : s.toIdle.st = .awaitingStart := rfl
@[simp] theorem State.len_toIdle (s : State) : s.toIdle.len = 0 := rfl
@[simp] theorem State.tgt_toIdle (s : State) : s.toIdle.tgt = none := rfl
@[simp] theorem State.buf_toIdle (s : State) : s.toIdle.buf = s.buf := rfl
@[simp] theorem State.sinkEn_toIdle (s : State) : s.toIdle.sinkEn = s.sinkEn := rfl
@[simp] theorem State.faultShort_toIdle (s : State) : s.toIdle.faultShort = s.faultShort := rfl
@[simp] theorem State.regs_toIdle (s : State) : s.toIdle.regs = s.regs := rfl
@[simp] theorem State.devName_toIdle (s : State) : s.toIdle.devName = s.devName := rfl
@[simp] theorem State.tempLabel_toIdle (s : State) : s.toIdle.tempLabel = s.tempLabel := rfl
@[simp] theorem State.frameLen_toIdle (s : State) : s.toIdle.frameLen = s.frameLen := rfl
@[simp] theorem State.draft_toIdle (s : State) : s.toIdle.draft = s.draft := rfl
@[simp] theorem State.input_toIdle (s : State) : s.toIdle.input = s.input := rfl
@[simp] theorem State.output_toIdle (s : State) : s.toIdle.output = s.output := rfl

@[simp] theorem State.st_endDecode (s : State) : s.endDecode.st = s.st := rfl
@[simp] theorem State.len_endDecode (s : State) : s.endDecode.len = s.len := rfl
@[simp] theorem State.tgt_endDecode (s : State) : s.endDecode.tgt = s.tgt := rfl
@[simp] theorem State.buf_endDecode (s : State) : s.endDecode.buf = s.buf := rfl
@[simp] theorem State.sinkEn_endDecode (s : State) : s.endDecode.sinkEn = s.sinkEn := rfl
@[simp] theorem State.faultShort_endDecode (s : State) : s.endDecode.faultShort = s.faultShort := rfl
@[simp] theorem State.regs_endDecode (s : State) : s.endDecode.regs = s.regs := rfl
@[simp] theorem State.devName_endDecode (s : State) : s.endDecode.devName = s.devName := rfl
@[simp] theorem State.tempLabel_endDecode (s : State) : s.endDecode.tempLabel = s.tempLabel := rfl
@[simp] theorem State.frameLen_endDecode (s : State) : s.endDecode.frameLen = none := rfl
@[simp] theorem State.draft_endDecode (s : State) : s.endDecode.draft = {} := rfl
@[simp] theorem State.input_endDecode (s : State) : s.endDecode.input = s.input := rfl
@[simp] theorem State.output_endDecode (s : State) : s.endDecode.output = s.output := rfl

@[simp] theorem State.st_raiseShort (s : State) (n : Cnt) : (raiseShort n s).st = s.st := rfl
@[simp] theorem State.len_raiseShort (s : State) (n : Cnt) : (raiseShort n s).len = s.len := rfl
@[simp] theorem State.tgt_raiseShort (s : State) (n : Cnt) : (raiseShort n s).tgt = s.tgt := rfl
@[simp] theorem State.buf_raiseShort (s : State) (n : Cnt) : (raiseShort n s).buf = s.buf := rfl
@[simp] theorem State.sinkEn_raiseShort (s : State) (n : Cnt) : (raiseShort n s).sinkEn = s.sinkEn := rfl
@[simp] theorem State.faultShort_raiseShort (s : State) (n : Cnt) : (raiseShort n s).faultShort = true := rfl
@[simp] theorem State.regs_raiseShort (s : State) (n : Cnt) : (raiseShort n s).regs = s.regs := rfl
@[simp] theorem State.devName_raiseShort (s : State) (n : Cnt) : (raiseShort n s).devName = s.devName := rfl
@[simp] theorem State.tempLabel_raiseShort (s : State) (n : Cnt) : (raiseShort n s).tempLabel = s.tempLabel := rfl
@[simp] theorem State.frameLen_raiseShort (s : State) (n : Cnt) : (raiseShort n s).frameLen = s.frameLen := rfl
@[simp] theorem State.draft_raiseShort (s : State) (n : Cnt) : (raiseShort n s).draft = s.draft := rfl
@[simp] theorem State.input_raiseShort (s : State) (n : Cnt) : (raiseShort n s).input = s.input := rfl
@[simp] theorem State.output_raiseShort (s : State) (n : Cnt) : (raiseShort n s).output = s.output ++ [.fault .shortTelemetryFrame n] := rfl

end Sys2Proof.Machine
end

