-- ==== Sys2Proof/Laws/Memory.lean ====
section
/-! SUPPORT. The frame buffer: read after write, the canonical form, the live bytes as a list. -/

namespace Sys2Proof.Machine

/-- The index written reads as the byte written, whatever the form of the memory. -/
theorem Memory.read_write_same (m : Memory) (i : Nat) (v : Byte) :
    Memory.read (Memory.write m i v) i = some v := by
  induction m with
  | nil => simp [Memory.write, Memory.read]
  | cons x m ih =>
    obtain ⟨a, b⟩ := x
    simp only [Memory.write]
    split
    · simp [Memory.read]
    · split
      · simp [Memory.read]
      · simp [Memory.read, *]

/-- Every other index reads as before, whatever the form of the memory. -/
theorem Memory.read_write_other (m : Memory) (i j : Nat) (v : Byte) (h : j ≠ i) :
    Memory.read (Memory.write m i v) j = Memory.read m j := by
  induction m with
  | nil => simp [Memory.write, Memory.read, h]
  | cons x m ih =>
    obtain ⟨a, b⟩ := x
    simp only [Memory.write]
    split
    · simp [Memory.read, h]
    · split
      · subst a; simp [Memory.read, h]
      · simp [Memory.read, ih]

/-- A read after a write at the same index gives the byte written, at any other what was there. -/
theorem Memory.read_write (m : Memory) (i j : Nat) (v : Byte) :
    Memory.read (Memory.write m i v) j = if j = i then some v else Memory.read m j := by
  split
  · subst j; exact Memory.read_write_same m i v
  · exact Memory.read_write_other m i j v ‹_›

theorem Memory.risingFrom_write (m : Memory) (i : Nat) (v : Byte) (hi : i < bufBytes) :
    ∀ lo, lo ≤ i → Memory.risingFrom lo m = true → Memory.risingFrom lo (Memory.write m i v) = true := by
  induction m with
  | nil => intro lo hlo _; simp [Memory.write, Memory.risingFrom, hlo, hi]
  | cons x m ih =>
    obtain ⟨a, b⟩ := x
    intro lo hlo h
    simp only [Memory.risingFrom, Bool.and_eq_true, decide_eq_true_eq] at h
    simp only [Memory.write]
    split
    · simp only [Memory.risingFrom, Bool.and_eq_true, decide_eq_true_eq]
      exact ⟨⟨hlo, hi⟩, ⟨by omega, h.1.2⟩, h.2⟩
    · split
      · subst a
        simp only [Memory.risingFrom, Bool.and_eq_true, decide_eq_true_eq]
        exact ⟨⟨hlo, hi⟩, h.2⟩
      · simp only [Memory.risingFrom, Bool.and_eq_true, decide_eq_true_eq]
        exact ⟨h.1, ih _ (by omega) h.2⟩

/-- A write keeps the canonical form. -/
theorem Memory.wf_write {m : Memory} {i : Nat} {v : Byte} (hi : i < bufBytes) (h : Memory.wf m = true) :
    Memory.wf (Memory.write m i v) = true :=
  Memory.risingFrom_write m i v hi 0 (Nat.zero_le i) h

/-- The reset memory has the canonical form. -/
theorem State.reset_wf : Memory.wf State.reset.buf = true := rfl

/-- Equal reads below the bound give equal slices. -/
theorem Memory.slice_congr {m m' : Memory} (k : Nat) :
    ∀ i, (∀ j, i ≤ j → j < i + k → Memory.read m j = Memory.read m' j) →
      Memory.slice m i k = Memory.slice m' i k := by
  induction k with
  | zero => intro i _; rfl
  | succ k ih =>
    intro i h
    simp only [Memory.slice]
    rw [h i (Nat.le_refl i) (by omega), ih (i + 1) (fun j h1 h2 => h j (by omega) (by omega))]

/-- A slice has the bytes asked for, each as it is read. -/
theorem Memory.slice_some {m : Memory} {k : Nat} :
    ∀ {i : Nat} {bs : List Byte}, Memory.slice m i k = some bs →
      bs.length = k ∧ ∀ j, j < k → Memory.read m (i + j) = some (bs.getD j 0) := by
  induction k with
  | zero => intro i bs h; simp [Memory.slice] at h; subst h; simp
  | succ k ih =>
    intro i bs h
    simp only [Memory.slice] at h
    split at h
    · rename_i b bs' hb hbs
      cases h
      obtain ⟨hl, hr⟩ := ih hbs
      refine ⟨by simp [hl], fun j hj => ?_⟩
      cases j with
      | zero => simpa using hb
      | succ j =>
        have := hr j (by omega)
        rw [show i + (j + 1) = i + 1 + j by omega]
        simpa using this
    · cases h

/-- Where every index holds a value, the slice is there. -/
theorem Memory.slice_isSome {m : Memory} (k : Nat) :
    ∀ i, (∀ j, i ≤ j → j < i + k → (Memory.read m j).isSome = true) → ∃ bs, Memory.slice m i k = some bs := by
  induction k with
  | zero => intro i _; exact ⟨[], rfl⟩
  | succ k ih =>
    intro i h
    obtain ⟨b, hb⟩ := Option.isSome_iff_exists.mp (h i (Nat.le_refl i) (by omega))
    obtain ⟨bs, hbs⟩ := ih (i + 1) (fun j h1 h2 => h j (by omega) (by omega))
    exact ⟨b :: bs, by simp [Memory.slice, hb, hbs]⟩

/-- One more byte at the end. -/
theorem Memory.slice_succ {m : Memory} (k : Nat) :
    ∀ {i : Nat} {bs : List Byte} {b : Byte}, Memory.slice m i k = some bs → Memory.read m (i + k) = some b →
      Memory.slice m i (k + 1) = some (bs ++ [b]) := by
  induction k with
  | zero => intro i bs b h hb; simp [Memory.slice] at h; subst h; simp at hb; simp [Memory.slice, hb]
  | succ k ih =>
    intro i bs b h hb
    rw [Memory.slice] at h
    split at h
    · rename_i b0 bs' hb0 hbs
      cases h
      have := ih hbs (b := b) (by rw [← hb]; congr 1; omega)
      rw [Memory.slice, hb0, this]
      rfl
    · cases h

end Sys2Proof.Machine
end

