-- ==== Sys2Proof/Laws/Select.lean ====
section
/-! SUPPORT. What each selector selects: the operation map (R75) as conditions. -/

namespace Sys2Proof.Machine

set_option maxRecDepth 20000 in
/-- While idle: the sentinel starts, any other byte is discarded. -/
theorem selectByte_idle : ∀ (pos : BitVec 2) (c : Byte),
    selectByte (packSel 0 pos c) = if c = 0xAA then .start else .discard := by decide

set_option maxRecDepth 20000 in
theorem selectByte_head : ∀ c : Byte, selectByte (packSel 1 0 c) = .head := by decide

set_option maxRecDepth 20000 in
theorem selectByte_latch : ∀ c : Byte, selectByte (packSel 1 1 c) = .latch := by decide

set_option maxRecDepth 20000 in
theorem selectByte_body : ∀ c : Byte, selectByte (packSel 1 2 c) = .body := by decide

set_option maxRecDepth 20000 in
theorem selectByte_complete : ∀ c : Byte, selectByte (packSel 1 3 c) = .complete := by decide

/-- `pos` while a frame is in progress (R67). -/
theorem bytePos_accumulating {s : State} (h : s.st = .accumulatingFrame) :
    bytePos s = if s.len.toNat + 1 < 5 then 0 else if s.len.toNat + 1 = 5 then 1
      else if s.tgt.map BitVec.toNat = some (s.len.toNat + 1) then 3 else 2 := by
  unfold bytePos
  rw [h]
  rfl

/-- The operation a byte selects, by the tests of R67 in order. -/
theorem selectByte_byteSel (s : State) (c : Byte) :
    selectByte (byteSel s c) =
      match s.st with
      | .awaitingStart => if c = 0xAA then .start else .discard
      | .accumulatingFrame =>
        if s.len.toNat + 1 < 5 then .head
        else if s.len.toNat + 1 = 5 then .latch
        else if s.tgt.map BitVec.toNat = some (s.len.toNat + 1) then .complete
        else .body := by
  unfold byteSel
  cases hst : s.st
  · exact selectByte_idle _ c
  · rw [bytePos_accumulating hst]
    simp only [stBit]
    split_ifs
    · exact selectByte_head c
    · exact selectByte_latch c
    · exact selectByte_complete c
    · exact selectByte_body c

theorem toNat_packFsel (b : Bool) (src typ : Byte) :
    (packFsel b src typ).toNat = b.toNat * 65536 + src.toNat * 256 + typ.toNat := by
  have h1 := src.isLt
  have h2 := typ.isLt
  have h3 := b.toNat_lt
  unfold packFsel
  rw [BitVec.toNat_append, BitVec.toNat_append, BitVec.toNat_ofBool, Nat.shiftLeft_eq, Nat.shiftLeft_eq,
    Nat.mul_comm _ (2 ^ 8), Nat.mul_comm _ (2 ^ 8), ← Nat.two_pow_add_eq_or_of_lt h1,
    ← Nat.two_pow_add_eq_or_of_lt h2]
  omega

/-- The frame outcome, by the filter and the length test (R111 to R114). -/
theorem selectFrame_packFsel (b : Bool) (src typ : Byte) :
    selectFrame (packFsel b src typ) =
      if src = 3 ∧ typ = 0 then (if b then .short else .telem) else .drop := by
  have hs := src.isLt
  have ht := typ.isLt
  have key : ∀ k : BitVec 17, (packFsel b src typ &&& 0x1FFFF = k) ↔
      b.toNat * 65536 + src.toNat * 256 + typ.toNat = k.toNat := by
    intro k
    rw [show (0x1FFFF : BitVec 17) = BitVec.allOnes 17 from rfl, BitVec.and_allOnes, ← toNat_packFsel]
    exact BitVec.toNat_inj.symm
  have hsrc : src = 3 ↔ src.toNat = 3 := BitVec.toNat_inj.symm
  have htyp : typ = 0 ↔ typ.toNat = 0 := BitVec.toNat_inj.symm
  simp only [selectFrame, frameRows, firstMatch, key, hsrc, htyp, show (0x00300 : BitVec 17).toNat = 768 from rfl,
    show (0x10300 : BitVec 17).toNat = 66304 from rfl]
  cases b
  · simp only [Bool.toNat_false]
    by_cases h : src.toNat = 3 ∧ typ.toNat = 0
    · rw [if_pos (by omega), if_pos h]; rfl
    · rw [if_neg (by omega), if_neg (by omega), if_neg h]
  · simp only [Bool.toNat_true]
    by_cases h : src.toNat = 3 ∧ typ.toNat = 0
    · rw [if_neg (by omega), if_pos (by omega), if_pos h]; rfl
    · rw [if_neg (by omega), if_neg (by omega), if_neg h]

/-- The frame outcome of a completed frame, by its length and discriminators (R68, R75). -/
theorem selectFrame_frameSel (n : Cnt) (src typ : Byte) :
    selectFrame (frameSel n src typ) =
      if src = 3 ∧ typ = 0 then (if n.toNat < 35 then .short else .telem) else .drop := by
  have h35 : recMinLen = 35 := rfl
  unfold frameSel
  rw [selectFrame_packFsel, h35]
  by_cases h : n.toNat < 35 <;> simp only [h, decide_true, decide_false, if_true, if_false, Bool.false_eq_true]

theorem selectDeliver_ofBool (b : Bool) :
    selectDeliver (BitVec.ofBool b) = if b then .notify else .discard := by
  cases b <;> decide

/-- The byte of a BYTE selector is `sel[7:0]` (R67). -/
theorem extractLsb'_packSel (st : BitVec 1) (pos : BitVec 2) (c : Byte) : (packSel st pos c).extractLsb' 0 8 = c := by
  apply BitVec.eq_of_getLsbD_eq
  intro i hi
  rw [BitVec.getLsbD_extractLsb']
  simp only [packSel, Nat.zero_add, BitVec.getLsbD_append, hi, decide_true, Bool.true_and, if_true]

/-- The three parts of `fsel` (R68). -/
theorem getLsbD_packFsel (b : Bool) (src typ : Byte) : (packFsel b src typ).getLsbD 16 = b := by
  simp only [packFsel, BitVec.getLsbD_append, show ¬ (16 < 8) by omega]
  cases b <;> rfl

theorem extractLsb'_packFsel_src (b : Bool) (src typ : Byte) : (packFsel b src typ).extractLsb' 8 8 = src := by
  apply BitVec.eq_of_getLsbD_eq
  intro i hi
  rw [BitVec.getLsbD_extractLsb']
  simp only [packFsel, BitVec.getLsbD_append, hi, decide_true, Bool.true_and, show ¬ (8 + i < 8) by omega,
    Nat.add_sub_cancel_left, if_true, if_false]

theorem extractLsb'_packFsel_typ (b : Bool) (src typ : Byte) : (packFsel b src typ).extractLsb' 0 8 = typ := by
  apply BitVec.eq_of_getLsbD_eq
  intro i hi
  rw [BitVec.getLsbD_extractLsb']
  simp only [packFsel, Nat.zero_add, BitVec.getLsbD_append, hi, decide_true, Bool.true_and, if_true]

end Sys2Proof.Machine
end

