-- ==== Sys2Proof/Laws/Ops.lean ====
section
/-! SUPPORT. One lemma per shared operation: everything it can do. -/

namespace Sys2Proof.Machine

@[simp] theorem andThen_next (s : State) (f : State → Result) : andThen (.next s) f = f s := rfl
@[simp] theorem andThen_fault (r : Fault) (f : State → Result) : andThen (.fault r) f = .fault r := rfl
@[simp] theorem andThen_refused (r : Refusal) (f : State → Result) : andThen (.refused r) f = .refused r := rfl

/-- A sequence goes on exactly when its first part does and then its second. -/
theorem andThen_eq_next {o : Result} {f : State → Result} {t : State} :
    andThen o f = .next t ↔ ∃ s, o = .next s ∧ f s = .next t := by
  cases o <;> simp

theorem andThen_assoc (o : Result) (f g : State → Result) :
    andThen (andThen o f) g = andThen o fun s => andThen (f s) g := by
  cases o <;> rfl

theorem andThen_next_right (o : Result) : andThen o (fun s => .next s) = o := by
  cases o <;> rfl

theorem memWrite_eq_next {i : Nat} {v : Byte} {s t : State} :
    memWrite i v s = .next t ↔ i < 261 ∧ t = s.setBuf (Memory.write s.buf i v) := by
  have h : bufBytes = 261 := rfl
  unfold memWrite
  rw [h]
  split <;> simp_all [eq_comm]

theorem memRead1_eq_ok {i : Nat} {s : State} {b : Byte} :
    memRead1 i s = .ok b ↔ ∃ n, s.frameLen = some n ∧ i < n.toNat ∧ Memory.read s.buf i = some b := by
  unfold memRead1
  cases s.frameLen with
  | none => simp
  | some n =>
    simp only [Option.some.injEq, exists_eq_left']
    split
    · cases Memory.read s.buf i <;> simp_all
    · simp_all

theorem memRead2_eq_ok {i : Nat} {s : State} {v : Half} :
    memRead2 i s = .ok v ↔ ∃ n lo hi, s.frameLen = some n ∧ i + 1 < n.toNat ∧ Memory.read s.buf i = some lo ∧
      Memory.read s.buf (i + 1) = some hi ∧ v = u16le lo hi := by
  unfold memRead2
  constructor
  · intro h
    split at h
    · cases h
    · rename_i lo hlo
      split at h
      · cases h
      · rename_i hi hhi
        cases h
        obtain ⟨n, hn, _, h1⟩ := memRead1_eq_ok.mp hlo
        obtain ⟨n', hn', hi', h2⟩ := memRead1_eq_ok.mp hhi
        rw [hn] at hn'; cases hn'
        exact ⟨n, lo, hi, hn, hi', h1, h2, rfl⟩
  · rintro ⟨n, lo, hi, hn, hlt, h1, h2, rfl⟩
    rw [memRead1_eq_ok.mpr ⟨n, hn, by omega, h1⟩, memRead1_eq_ok.mpr ⟨n, hn, hlt, h2⟩]

/-- `u16le` is `lo + 256 * hi` (R42, R72). -/
theorem toNat_u16le (lo hi : Byte) : (u16le lo hi).toNat = lo.toNat + 256 * hi.toNat := by
  have h1 := lo.isLt
  have h2 := hi.isLt
  unfold u16le
  rw [BitVec.toNat_append, Nat.shiftLeft_eq, Nat.mul_comm, ← Nat.two_pow_add_eq_or_of_lt h1]
  omega

/-- The target length is `6 + L`, with no wrap (R64, R72). -/
theorem toNat_targetLen (c : Byte) : (targetLen c).toNat = 6 + c.toNat := by
  have := c.isLt
  simp [targetLen, lenBias, zext9, BitVec.toNat_add]
  omega

theorem loadField_eq_next {α : Type} {value : Except Fault α} {put : Draft → α → Draft} {s t : State} :
    loadField value put s = .next t ↔ ∃ v, value = .ok v ∧ t = s.setDraft (put s.draft v) := by
  cases value <;> simp [loadField, eq_comm]

/-! The record being built is in nobody's way: reads and labels do not depend on it. -/

@[simp] theorem memRead1_setDraft (i : Nat) (s : State) (d : Draft) : memRead1 i (s.setDraft d) = memRead1 i s := rfl

@[simp] theorem memRead2_setDraft (i : Nat) (s : State) (d : Draft) : memRead2 i (s.setDraft d) = memRead2 i s := rfl

@[simp] theorem setDraft_setDraft (s : State) (d e : Draft) : (s.setDraft d).setDraft e = s.setDraft e := rfl

@[simp] theorem loadField_ok {α : Type} (v : α) (put : Draft → α → Draft) (s : State) :
    loadField (.ok v) put s = .next (s.setDraft (put s.draft v)) := rfl

theorem handOver_eq_next {n : Cnt} {s t : State} :
    handOver n s = .next t ↔ ∃ f, Memory.slice s.buf 0 n.toNat = some f ∧
      t = (s.emit (.frame f)).toIdle.setFrameLen (some n) := by
  unfold handOver
  cases Memory.slice s.buf 0 n.toNat <;> simp [eq_comm]

theorem storeNext_eq_next {c : Byte} {s t : State} :
    storeNext c s = .next t ↔ s.len.toNat < 261 ∧
      t = (s.setBuf (Memory.write s.buf s.len.toNat c)).setLen (s.len + 1) := by
  unfold storeNext
  rw [andThen_eq_next]
  constructor
  · rintro ⟨s1, h1, h2⟩
    obtain ⟨hlt, rfl⟩ := memWrite_eq_next.mp h1
    cases h2
    exact ⟨hlt, rfl⟩
  · rintro ⟨hlt, rfl⟩
    exact ⟨_, memWrite_eq_next.mpr ⟨hlt, rfl⟩, rfl⟩

/-- Delivery, by `sink_en` (R130, R131). -/
theorem deliver_eq (s : State) : deliver s = if s.sinkEn then execDNotify s else execDDiscard s := by
  unfold deliver
  rw [selectDeliver_ofBool]
  cases s.sinkEn <;> rfl

theorem execDNotify_eq_next {s t : State} :
    execDNotify s = .next t ↔ ∃ r a b, s.draft.regs? = some r ∧ s.draft.devName = some a ∧
      s.draft.tempLabel = some b ∧ t = (s.setRegs (some r)).emit (.notify ⟨r, a, b⟩) := by
  unfold execDNotify
  cases s.draft.regs? <;> cases s.draft.devName <;> cases s.draft.tempLabel <;> simp [eq_comm]

/-- `Decode` by the filter, then the length (R110, R171 c), where the two discriminators can be read. -/
theorem decodeFrame_eq {s : State} {n : Cnt} {src typ : Byte} (hn : s.frameLen = some n)
    (h2 : memRead1 2 s = .ok src) (h3 : memRead1 3 s = .ok typ) :
    decodeFrame s = if src = 3 ∧ typ = 0 then
      (if n.toNat < 35 then execDShort s else execDTelem s) else .next s := by
  have hsrc : srcIndex = 2 := rfl
  have htyp : typIndex = 3 := rfl
  unfold decodeFrame
  rw [hsrc, htyp, hn, h2, h3]
  have h35 : recMinLen = 35 := rfl
  simp only [frameOutcome, frameSel, selectFrame_packFsel]
  rw [h35]
  by_cases h : src = 3 ∧ typ = 0
  · by_cases hlt : n.toNat < 35 <;> simp only [if_pos h, hlt, decide_true, decide_false, if_true, if_false,
      Bool.false_eq_true]
  · simp only [if_neg h, execDDrop]

/-- The six paths of a byte, by the tests of R67 in order. -/
theorem execHByte_eq (c : Byte) (s : State) :
    execHByte c s =
      match s.st with
      | .awaitingStart => if c = 0xAA then execAStart s else execADiscard c s
      | .accumulatingFrame =>
        if s.len.toNat + 1 < 5 then execAHead c s
        else if s.len.toNat + 1 = 5 then execALatch c s
        else if s.tgt.map BitVec.toNat = some (s.len.toNat + 1) then execAComplete c s
        else execABody c s := by
  unfold execHByte
  rw [selectByte_byteSel]
  cases s.st <;> simp only [] <;> split_ifs <;> rfl

theorem execHFeed_append (a b : List Byte) (s : State) :
    execHFeed (a ++ b) s = andThen (execHFeed a s) (execHFeed b) := by
  induction a generalizing s with
  | nil => rfl
  | cons c a ih =>
    simp only [List.cons_append, execHFeed]
    rw [andThen_assoc]
    congr 1
    funext s'
    exact ih s'

end Sys2Proof.Machine
end

