-- ==== Sys2Proof/Laws/Decoder.lean ====
section
/-! SUPPORT. Once per shared operation of the decoder and of the step, everything it can do. -/

namespace Sys2Proof.Machine

/-- The little-endian pair as an integer (R42). -/
theorem u16le_eq (lo hi : Byte) : u16le lo hi = BitVec.ofNat 16 (lo.toNat + 256 * hi.toNat) := by
  apply BitVec.eq_of_toNat_eq
  have := (u16le lo hi).isLt
  rw [toNat_u16le] at *
  rw [BitVec.toNat_ofNat, Nat.mod_eq_of_lt this]

set_option maxRecDepth 20000 in
/-- S8T200 as an integer (R66). -/
theorem s8t200_eq : ∀ b : Byte,
    s8t200 b = BitVec.ofInt 9 (if 200 ≤ (b.toNat : Int) then (b.toNat : Int) - 256 else b.toNat) := by decide

/-- The live bytes of a state that meets the invariants (R14). -/
theorem StateInv.data_some {s : State} (h : StateInv s) : ∃ d, s.data = some d ∧ d.length = s.len.toNat := by
  obtain ⟨d, hd⟩ := Memory.slice_isSome s.len.toNat 0 (fun j _ hj => h.live j (by omega))
  exact ⟨d, hd, (Memory.slice_some hd).1⟩

/-- The thirteen extractions of a frame of 35 bytes or more (R113): the record of its bytes, and the labels in force. -/
theorem inOrder_extractions {s : State} {n : Cnt} {frame : List Byte} (hn : s.frameLen = some n)
    (h35 : 35 ≤ n.toNat) (hs : Memory.slice s.buf 0 n.toNat = some frame) :
    ∃ d : Draft, d.regs? = some (recordOf frame) ∧ d.devName = s.devName ∧ d.tempLabel = s.tempLabel ∧
      inOrder extractions s = .next (s.setDraft d) := by
  obtain ⟨hl, hr⟩ := Memory.slice_some hs
  have r1 : ∀ i, i < 35 → memRead1 i s = .ok (byteAt frame i) := fun i hi =>
    memRead1_eq_ok.mpr ⟨n, hn, by omega, by simpa [byteAt] using hr i (by omega)⟩
  have r2 : ∀ i, i + 1 < 35 → memRead2 i s = .ok (u16At frame i) := by
    intro i hi
    simp only [memRead2, r1 i (by omega), r1 (i + 1) hi, u16le_eq, u16At]
  refine ⟨⟨some (u16At frame 7), some (u16At frame 9), some (u16At frame 11), some (u16At frame 13),
    some (u16At frame 17), some (u16At frame 19), some (u16At frame 21), some (u16At frame 23),
    some (byteAt frame 25), some (tempAt frame 27), some (byteAt frame 29), some (u16At frame 33),
    s.devName, s.tempLabel⟩, rfl, rfl, rfl, ?_⟩
  simp only [extractions, inOrder, execXChgMode, execXPvVolt, execXBatVolt, execXChgCur, execXLoadVolt,
    execXLoadCur, execXChgPower, execXLoadPower, execXExtTemp, execXIntTemp, execXSoc, execXCo2Gram, execXLabels,
    fieldIndex, memRead1_setDraft, memRead2_setDraft, r2 7 (by omega), r2 9 (by omega), r2 11 (by omega),
    r2 13 (by omega), r2 17 (by omega), r2 19 (by omega), r2 21 (by omega), r2 23 (by omega), r1 25 (by omega),
    r1 27 (by omega), r1 29 (by omega), r2 33 (by omega), loadField_ok, andThen_next, State.draft_setDraft,
    setDraft_setDraft, State.devName_setDraft, State.tempLabel_setDraft, s8t200_eq]
  rfl

/-- An operation that changes at most the record being built. -/
def OnlyDraft (op : State → Result) : Prop := ∀ s t, op s = .next t → ∃ d, t = s.setDraft d

theorem onlyDraft_loadField {α : Type} (value : State → Except Fault α) (put : Draft → α → Draft) :
    OnlyDraft (fun s => loadField (value s) put s) := by
  intro s t h
  obtain ⟨v, _, rfl⟩ := loadField_eq_next.mp h
  exact ⟨_, rfl⟩

theorem onlyDraft_inOrder : ∀ ops : List (State → Result), (∀ op ∈ ops, OnlyDraft op) → OnlyDraft (inOrder ops) := by
  intro ops
  induction ops with
  | nil => intro _ s t h; cases h; exact ⟨s.draft, rfl⟩
  | cons o os ih =>
    intro ho s t h
    obtain ⟨u, h1, h2⟩ := andThen_eq_next.mp h
    obtain ⟨d, rfl⟩ := ho o (by simp) _ _ h1
    obtain ⟨d', rfl⟩ := ih (fun o h => ho o (by simp [h])) _ _ h2
    exact ⟨d', rfl⟩

theorem onlyDraft_extractions : OnlyDraft (inOrder extractions) := by
  apply onlyDraft_inOrder
  intro op h
  simp only [extractions, List.mem_cons, List.not_mem_nil, or_false] at h
  rcases h with rfl | rfl | rfl | rfl | rfl | rfl | rfl | rfl | rfl | rfl | rfl | rfl | rfl
  all_goals first | exact onlyDraft_loadField _ _ | (intro s t h; cases h; exact ⟨_, rfl⟩)

/-- Everything `Decode` can do to a state, whatever the state (R110, R111). -/
theorem decodeFrame_cases {s t : State} (h : decodeFrame s = .next t) :
    (∃ d, t = s.setDraft d) ∨ (∃ n, s.frameLen = some n ∧ t = raiseShort n s) ∨
      ∃ (d : Draft) (r : Record), t = ((s.setDraft d).setRegs (some r.regs)).emit (.notify r) := by
  unfold decodeFrame at h
  split at h
  · cases h
  · unfold frameOutcome at h
    split at h
    · obtain ⟨u, h1, h2⟩ := andThen_eq_next.mp h
      obtain ⟨d, rfl⟩ := onlyDraft_extractions _ _ h1
      rw [deliver_eq] at h2
      split at h2
      · obtain ⟨r, a, b, _, _, _, rfl⟩ := execDNotify_eq_next.mp h2
        exact .inr (.inr ⟨d, ⟨r, a, b⟩, rfl⟩)
      · cases h2; exact .inl ⟨d, rfl⟩
    · unfold execDShort at h
      split at h
      · cases h
      · cases h; exact .inr (.inl ⟨_, by assumption, rfl⟩)
    · cases h; exact .inl ⟨s.draft, rfl⟩
  · cases h
  · cases h

/-- What a step is, by its event (R9, R140). -/
theorem step_cases {s t : State} (h : step s = .next t) : (s.input = [] ∧ t = s) ∨
    (∃ c rest, s.input = .byte c :: rest ∧ execHByte c (s.setInput rest) = .next t) ∨
    (∃ rest, s.input = .reset :: rest ∧ t = (State.reset.setInput rest).setOutput s.output) ∨
    (∃ rest, s.input = .registerSink :: rest ∧ t = (s.setInput rest).setSinkEn true) ∨
    (∃ rest a b, s.input = .setLabels a b :: rest ∧
      t = ((s.setInput rest).setDevName (some a)).setTempLabel (some b)) := by
  unfold step fetchEvent at h
  cases hin : s.input with
  | nil => rw [hin] at h; cases h; exact .inl ⟨rfl, rfl⟩
  | cons e rest =>
    rw [hin] at h; simp only [] at h
    cases e with
    | byte c => exact .inr (.inl ⟨c, rest, rfl, h⟩)
    | reset => cases h; exact .inr (.inr (.inl ⟨rest, rfl, rfl⟩))
    | registerSink => cases h; exact .inr (.inr (.inr (.inl ⟨rest, rfl, rfl⟩)))
    | setLabels a b => cases h; exact .inr (.inr (.inr (.inr ⟨rest, a, b, rfl, rfl⟩)))

theorem framesOf_append (a b : List OutEvent) : framesOf (a ++ b) = framesOf a ++ framesOf b := by
  induction a with
  | nil => rfl
  | cons e a ih => cases e <;> simp [framesOf, ih]

theorem notifiesOf_append (a b : List OutEvent) : notifiesOf (a ++ b) = notifiesOf a ++ notifiesOf b := by
  induction a with
  | nil => rfl
  | cons e a ih => cases e <;> simp [notifiesOf, ih]

end Sys2Proof.Machine
end

