-- ==== Sys2Proof/Laws/Driver.lean ====
section
/-! SUPPORT. The small laws of the environment's driver: what each of its updates leaves. -/

namespace Sys2Proof.Machine

@[simp] theorem Driver.block_act (d : Driver) (as : List Action) : (d.act as).block = d.block := rfl
@[simp] theorem Driver.pollTimer_act (d : Driver) (as : List Action) : (d.act as).pollTimer = d.pollTimer := rfl
@[simp] theorem Driver.mode_act (d : Driver) (as : List Action) : (d.act as).mode = d.mode := rfl
@[simp] theorem Driver.actions_act (d : Driver) (as : List Action) : (d.act as).actions = d.actions ++ as := rfl

@[simp] theorem Driver.block_fail (c : Answer Unit) (d : Driver) : (fail c d).block = d.block := rfl
@[simp] theorem Driver.pollTimer_fail (c : Answer Unit) (d : Driver) : (fail c d).pollTimer = d.pollTimer := rfl
@[simp] theorem Driver.mode_fail (c : Answer Unit) (d : Driver) : (fail c d).mode = .recovering := rfl
@[simp] theorem Driver.actions_fail (c : Answer Unit) (d : Driver) : (fail c d).actions = d.actions ++ [.close c] := rfl

@[simp] theorem Driver.block_failAttempt (as : List Action) (c : Answer Unit) (d : Driver) :
    (failAttempt as c d).block = d.block := rfl
@[simp] theorem Driver.pollTimer_failAttempt (as : List Action) (c : Answer Unit) (d : Driver) :
    (failAttempt as c d).pollTimer = d.pollTimer := rfl
@[simp] theorem Driver.mode_failAttempt (as : List Action) (c : Answer Unit) (d : Driver) :
    (failAttempt as c d).mode = d.mode := rfl

/-- A chunk fed changes the block alone, as H_FEED does (R145). -/
theorem feedBlock_eq_next {chunk : List Byte} {d d' : Driver} :
    feedBlock chunk d = .next d' ↔ ∃ b, execHFeed chunk d.block = .next b ∧ d' = { d with block := b } := by
  unfold feedBlock
  cases execHFeed chunk d.block <;> simp [eq_comm]

/-- Once the regime has ended no further attempt is made (R151). -/
theorem recover_normal : ∀ (probes : List Probe) {d : Driver}, d.mode = .normal → recover probes d = .next d := by
  intro probes
  induction probes with
  | nil => intro d _; rfl
  | cons p rest ih => intro d h; simp only [recover, attempt, h]; exact ih h

end Sys2Proof.Machine
end

