-- ==== Sys2Proof/Laws/PerInstr.lean ====
section
/-! SUPPORT. The family `Words`: one law per operation, about its selector words. -/

namespace Sys2Proof.Laws.Words

/-- No word of a well-formed operation is rejected, and each selects a well-formed operation (R75). -/
def Statement (i : Instr) : Prop :=
  i.wellFormed = true → ∀ w ∈ encode i, ∃ j, decode w = .instr j ∧ j.wellFormed = true

theorem aStart : Statement (.aStart) := by
  intro _ w hw
  rw [List.mem_singleton.mp hw]
  exact ⟨.aStart, by decide, rfl⟩

theorem aDiscard (c : Byte) : Statement (.aDiscard c) := by
  intro h w hw
  rw [List.mem_singleton.mp hw]
  refine ⟨.aDiscard c, ?_, h⟩
  have hc : c ≠ 0xAA := by rintro rfl; exact absurd h (by decide)
  simp only [decode, Machine.selectByte_idle, if_neg hc, byteInstr, Machine.extractLsb'_packSel]

theorem aHead (c : Byte) : Statement (.aHead c) := by
  intro _ w hw
  rw [List.mem_singleton.mp hw]
  exact ⟨_, congrArg (fun op => Decoded.instr (byteInstr op _)) (Machine.selectByte_head c), rfl⟩

theorem aLatch (c : Byte) : Statement (.aLatch c) := by
  intro _ w hw
  rw [List.mem_singleton.mp hw]
  exact ⟨_, congrArg (fun op => Decoded.instr (byteInstr op _)) (Machine.selectByte_latch c), rfl⟩

theorem aBody (c : Byte) : Statement (.aBody c) := by
  intro _ w hw
  rw [List.mem_singleton.mp hw]
  exact ⟨_, congrArg (fun op => Decoded.instr (byteInstr op _)) (Machine.selectByte_body c), rfl⟩

theorem aComplete (c : Byte) : Statement (.aComplete c) := by
  intro _ w hw
  rw [List.mem_singleton.mp hw]
  exact ⟨_, congrArg (fun op => Decoded.instr (byteInstr op _)) (Machine.selectByte_complete c), rfl⟩

theorem dTelem : Statement (.dTelem) := by
  intro _ w hw
  rw [List.mem_singleton.mp hw]
  exact ⟨.dTelem, by decide, rfl⟩

theorem dShort : Statement (.dShort) := by
  intro _ w hw
  rw [List.mem_singleton.mp hw]
  exact ⟨.dShort, by decide, rfl⟩

theorem dDrop (short : Bool) (src typ : Byte) : Statement (.dDrop short src typ) := by
  intro h w hw
  rw [List.mem_singleton.mp hw]
  refine ⟨.dDrop short src typ, ?_, h⟩
  have hn : ¬ (src = 3 ∧ typ = 0) := by rintro ⟨rfl, rfl⟩; exact absurd h Bool.false_ne_true
  simp only [decode, Machine.selectFrame_packFsel, if_neg hn, frameInstr, Machine.getLsbD_packFsel,
    Machine.extractLsb'_packFsel_src, Machine.extractLsb'_packFsel_typ]

theorem xChgMode : Statement (.xChgMode) := by
  intro _ w hw
  rw [List.mem_singleton.mp hw]
  exact ⟨.xChgMode, by decide, rfl⟩

theorem xPvVolt : Statement (.xPvVolt) := by
  intro _ w hw
  rw [List.mem_singleton.mp hw]
  exact ⟨.xPvVolt, by decide, rfl⟩

theorem xBatVolt : Statement (.xBatVolt) := by
  intro _ w hw
  rw [List.mem_singleton.mp hw]
  exact ⟨.xBatVolt, by decide, rfl⟩

theorem xChgCur : Statement (.xChgCur) := by
  intro _ w hw
  rw [List.mem_singleton.mp hw]
  exact ⟨.xChgCur, by decide, rfl⟩

theorem xLoadVolt : Statement (.xLoadVolt) := by
  intro _ w hw
  rw [List.mem_singleton.mp hw]
  exact ⟨.xLoadVolt, by decide, rfl⟩

theorem xLoadCur : Statement (.xLoadCur) := by
  intro _ w hw
  rw [List.mem_singleton.mp hw]
  exact ⟨.xLoadCur, by decide, rfl⟩

theorem xChgPower : Statement (.xChgPower) := by
  intro _ w hw
  rw [List.mem_singleton.mp hw]
  exact ⟨.xChgPower, by decide, rfl⟩

theorem xLoadPower : Statement (.xLoadPower) := by
  intro _ w hw
  rw [List.mem_singleton.mp hw]
  exact ⟨.xLoadPower, by decide, rfl⟩

theorem xExtTemp : Statement (.xExtTemp) := by
  intro _ w hw
  rw [List.mem_singleton.mp hw]
  exact ⟨.xExtTemp, by decide, rfl⟩

theorem xIntTemp : Statement (.xIntTemp) := by
  intro _ w hw
  rw [List.mem_singleton.mp hw]
  exact ⟨.xIntTemp, by decide, rfl⟩

theorem xSoc : Statement (.xSoc) := by
  intro _ w hw
  rw [List.mem_singleton.mp hw]
  exact ⟨.xSoc, by decide, rfl⟩

theorem xCo2Gram : Statement (.xCo2Gram) := by
  intro _ w hw
  rw [List.mem_singleton.mp hw]
  exact ⟨.xCo2Gram, by decide, rfl⟩

theorem xLabels : Statement (.xLabels) := by
  intro _ w hw
  rw [List.mem_singleton.mp hw]
  exact ⟨.xLabels, by decide, rfl⟩

theorem dNotify : Statement (.dNotify) := by
  intro _ w hw
  rw [List.mem_singleton.mp hw]
  exact ⟨.dNotify, by decide, rfl⟩

theorem dDiscard : Statement (.dDiscard) := by
  intro _ w hw
  rw [List.mem_singleton.mp hw]
  exact ⟨.dDiscard, by decide, rfl⟩

theorem hReset : Statement (.hReset) := by
  intro _ w hw
  rw [List.mem_singleton.mp hw]
  exact ⟨.hReset, by decide, rfl⟩

theorem hRegisterSink : Statement (.hRegisterSink) := by
  intro _ w hw
  rw [List.mem_singleton.mp hw]
  exact ⟨.hRegisterSink, by decide, rfl⟩

theorem hSetLabels (name label : Label) : Statement (.hSetLabels name label) := by
  intro _ w hw
  rw [List.mem_singleton.mp hw]
  exact ⟨_, rfl, rfl⟩

theorem hByte (c : Byte) : Statement (.hByte c) := by
  intro _ w hw
  rw [List.mem_singleton.mp hw]
  exact ⟨_, rfl, rfl⟩

theorem hFeed (chunk : List Byte) : Statement (.hFeed chunk) := by
  intro _ w hw
  obtain ⟨c, _, rfl⟩ := List.mem_map.mp hw
  exact ⟨.hByte c, rfl, rfl⟩

end Sys2Proof.Laws.Words
end

