-- ==== Sys2Proof/Tests/Slice0.lean ====
section
/-! SUPPORT. The model's own tests: expected values are those of spec/95_test_vectors.md (the vector is named
in the comment) or written out from the rule named. Then a witness for the hypotheses of every statement. -/

namespace Sys2Proof.Tests

open Sys2Proof.Machine

/-! Helpers. -/

/-- The next state of an outcome. -/
def after : Result → Option State
  | .next s => some s
  | .fault _ => none
  | .refused _ => none

/-- The state after reset with the assembler holding `data` and the target `tgt`. -/
def mid (data : List Byte) (tgt : Option Cnt) : State := placeData data tgt State.reset

/-- The state in which the decoder works on the frame `data`. -/
def loaded (data : List Byte) : State :=
  { State.reset with frameLen := some (BitVec.ofNat 9 data.length), buf := storeAll [] 0 data }

/-- `labels a b` and `sink` done. -/
def ready (s : State) : State := { s with sinkEn := true, devName := some [0x61], tempLabel := some [0x62] }

/-- The frame `T35` of 2.3, sentinel excluded. -/
def t35 : List Byte :=
  [0x01, 0x01, 0x03, 0x00, 0x1D, 0x00, 0x00, 0x03, 0x00, 0xFF, 0xFF, 0x00, 0x00, 0x01, 0x00, 0x11, 0x22] ++
  [0x00, 0x01, 0xFF, 0x00, 0xFF, 0xFF, 0x00, 0x00, 0xD2, 0x33, 0xC8, 0x44, 0xFF, 0x55, 0x66, 0x77, 0x34, 0x12]

/-- The record registers of V-X30; -56 in nine bits is 456. -/
def t35Regs : RegSet := ⟨3, 65535, 0, 1, 256, 255, 65535, 0, 210, 456, 255, 4660⟩

/-- `AA 01 01 03 00 00 5A` of V-D9, sentinel excluded. -/
def short6 : List Byte := [0x01, 0x01, 0x03, 0x00, 0x00, 0x5A]

/-! Well-formedness. -/

theorem test_wf_discard_not_sentinel : (Instr.aDiscard 0xAA).wellFormed = false := by decide
theorem test_wf_discard : (Instr.aDiscard 0xA9).wellFormed = true := by decide
theorem test_wf_drop_not_telemetry :
    (Instr.dDrop false 3 0).wellFormed = false ∧ (Instr.dDrop true 3 0).wellFormed = false := by decide
theorem test_wf_drop : (Instr.dDrop true 3 1).wellFormed = true ∧ (Instr.dDrop false 2 0).wellFormed = true := by decide

/-! Decoding: words written out bit by bit from R67, R68, R75 (fields `st`, `pos`, `c` or `short`, `src`, `typ`). -/

theorem test_decode_byte_words :
    decode (.byte 0b0_00_10101010#11) = .instr .aStart ∧
    decode (.byte 0b0_00_10101011#11) = .instr (.aDiscard 0xAB) ∧
    decode (.byte 0b1_00_00001001#11) = .instr (.aHead 0x09) ∧
    decode (.byte 0b1_01_10101010#11) = .instr (.aLatch 0xAA) ∧
    decode (.byte 0b1_10_10101010#11) = .instr (.aBody 0xAA) ∧
    decode (.byte 0b1_11_10101010#11) = .instr (.aComplete 0xAA) := by decide

theorem test_decode_frame_words :
    decode (.frame 0b0_00000011_00000000#17) = .instr .dTelem ∧
    decode (.frame 0b1_00000011_00000000#17) = .instr .dShort ∧
    decode (.frame 0b0_00000011_00000001#17) = .instr (.dDrop false 3 1) ∧
    decode (.frame 0b0_00000000_00000011#17) = .instr (.dDrop false 0 3) := by decide

theorem test_decode_field_words :
    decode (.field 0b0_00000011_00000000#17 (some 7)) = .instr .xChgMode ∧
    decode (.field 0x00300 (some 9)) = .instr .xPvVolt ∧ decode (.field 0x00300 (some 11)) = .instr .xBatVolt ∧
    decode (.field 0x00300 (some 13)) = .instr .xChgCur ∧ decode (.field 0x00300 (some 17)) = .instr .xLoadVolt ∧
    decode (.field 0x00300 (some 19)) = .instr .xLoadCur ∧ decode (.field 0x00300 (some 21)) = .instr .xChgPower ∧
    decode (.field 0x00300 (some 23)) = .instr .xLoadPower ∧ decode (.field 0x00300 (some 25)) = .instr .xExtTemp ∧
    decode (.field 0x00300 (some 27)) = .instr .xIntTemp ∧ decode (.field 0x00300 (some 29)) = .instr .xSoc ∧
    decode (.field 0x00300 (some 33)) = .instr .xCo2Gram ∧ decode (.field 0x00300 none) = .instr .xLabels := by decide

/-- A field operation runs only when D_TELEM does, and only where a field starts (R65, R75). -/
theorem test_decode_field_rejects :
    decode (.field 0x10300 (some 7)) = .reject .fieldNotSelected ∧
    decode (.field 0x00300 (some 8)) = .reject (.noFieldAt 8) := by decide

theorem test_decode_deliver_words :
    decode (.deliver 0b1#1) = .instr .dNotify ∧ decode (.deliver 0b0#1) = .instr .dDiscard := by decide

theorem test_decode_host_events :
    decode (.host .reset) = .instr .hReset ∧ decode (.host .registerSink) = .instr .hRegisterSink ∧
    decode (.host (.setLabels [1] [2])) = .instr (.hSetLabels [1] [2]) ∧
    decode (.host (.byte 0x55)) = .instr (.hByte 0x55) := by decide

theorem test_encode_words :
    encode (.aLatch 0xFF) = [.byte 0x5FF] ∧ encode (.dDrop true 3 1) = [.frame 0x10301] ∧
    encode .xSoc = [.field 0x00300 (some 29)] ∧ encode .dNotify = [.deliver 1] ∧
    encode (.hFeed [1, 2]) = [.host (.byte 1), .host (.byte 2)] := by decide

theorem test_table_words :
    decodeTableWord 16 0x0AA = some .aStart ∧ decodeTableWord 16 0x700 = some (.aComplete 0) ∧
    decodeTableWord 24 0x00300 = some .dTelem ∧ decodeTableWord 24 0 = some (.dDrop false 0 0) ∧ decodeTableWord 0 0 = some (.dDrop false 0 0) ∧
    decodeTableWord 8 2 = some .hRegisterSink ∧ decodeTableWord 1 1 = some .dNotify := by decide

/-- A placed A_LATCH is what the next step performs: `6 + 0xFF` (V-A11). -/
theorem test_placed_latch :
    (after (step (State.reset.withFetchWord 16 0x5FF))).map (·.tgt) = some (some 261) := by decide
/-- A placed D_SHORT raises the fault of V-D9. -/
theorem test_placed_short :
    (after (step (State.reset.withFetchWord 24 0x10300))).map (·.faultShort) = some true := by decide
/-- A placed H_REGISTER_SINK. -/
theorem test_placed_sink :
    (after (step (State.reset.withFetchWord 8 2))).map (·.sinkEn) = some true := by decide

/-! The assembler operations. -/

/-- V-A3. -/
theorem test_start :
    (after (exec .aStart State.reset)).map (fun s => (s.st, s.len, s.tgt)) = some (.accumulatingFrame, 0, none) := by
  decide
/-- V-A2. -/
theorem test_discard : after (exec (.hByte 0xA9) State.reset) = some State.reset := by decide
/-- V-A4. -/
theorem test_head_sentinel_is_data :
    (after (exec (.hByte 0xAA) (mid [] none))).map (fun s => (s.st, s.len, Memory.read s.buf 0)) =
      some (.accumulatingFrame, 1, some 0xAA) := by decide
/-- V-A5. -/
theorem test_head_fourth :
    (after (exec (.aHead 0x00) (mid [1, 1, 3] none))).map (fun s => (s.len, s.tgt, Memory.read s.buf 3)) =
      some (4, none, some 0) := by decide
/-- V-A6. -/
theorem test_latch_sentinel :
    (after (exec (.hByte 0xAA) (mid [0, 0, 0, 0] none))).map (fun s => (s.len, s.tgt, Memory.read s.buf 4)) =
      some (5, some 176, some 0xAA) := by decide
/-- V-A11. -/
theorem test_latch_greatest :
    (after (exec (.aLatch 0xFF) (mid [0, 0, 0, 0] none))).map (·.tgt) = some (some 261) := by decide
/-- V-A13. -/
theorem test_body_first :
    (after (exec (.hByte 0x00) (mid [0, 0, 0, 0, 0x22] (some 40)))).map (fun s => (s.st, s.len, s.tgt)) =
      some (.accumulatingFrame, 6, some 40) := by decide
/-- V-A7, with the bytes before it zero. -/
theorem test_body_sentinel :
    (after (exec (.aBody 0xAA) (mid ([0, 0, 0, 0, 0x22] ++ List.replicate 15 0) (some 40)))).map
      (fun s => (s.len, Memory.read s.buf 20, s.output)) = some (21, some 0xAA, []) := by decide
/-- R97's example. -/
theorem test_complete :
    (after (exec (.hByte 0x5A) (mid [1, 1, 7, 9, 0] (some 6)))).map (fun s => (s.st, s.len, s.tgt, s.output)) =
      some (.awaitingStart, 0, none, [.frame [1, 1, 7, 9, 0, 0x5A]]) := by decide
/-- V-A8: a tail byte of AA is data and starts no other frame. -/
theorem test_complete_sentinel_tail :
    (after (exec (.aComplete 0xAA) (mid [9, 9, 9, 9, 0] (some 6)))).map (fun s => (s.st, s.output)) =
      some (.awaitingStart, [.frame [9, 9, 9, 9, 0, 0xAA]]) := by decide

/-! The decoder operations. -/

/-- V-X30: every field from its own index. -/
theorem test_telem_registers : (after (exec .dTelem (ready (loaded t35)))).map (·.regs) = some (some t35Regs) := by
  decide
/-- V-D2: without a consumer nothing is delivered. -/
theorem test_telem_no_consumer :
    (after (exec .dTelem (loaded t35))).map (fun s => (s.regs, s.output)) = some (none, []) := by decide
/-- V-D9. -/
theorem test_short :
    (after (exec .dShort (loaded short6))).map (fun s => (s.faultShort, s.regs, s.output)) =
      some (true, none, [.fault .shortTelemetryFrame 6]) := by decide
/-- V-D9 through its completing byte: the frame event comes first, and the assembler is idle after the fault. -/
theorem test_short_step :
    (after (exec (.hByte 0x5A) (mid [1, 1, 3, 0, 0] (some 6)))).map (fun s => (s.st, s.faultShort, s.output)) =
      some (.awaitingStart, true, [.frame short6, .fault .shortTelemetryFrame 6]) := by decide
/-- V-D8: short and not telemetry is a drop. -/
theorem test_drop :
    (after (exec (.hByte 0x5A) (ready (mid [1, 1, 3, 1, 0] (some 6))))).map (fun s => (s.faultShort, s.output)) =
      some (false, [.frame [1, 1, 3, 1, 0, 0x5A]]) := by decide

/-- The fields of `T35` (V-X30). -/
theorem test_chgMode : (after (exec .xChgMode (loaded t35))).map (·.draft.chgMode) = some (some 3) := by decide
theorem test_pvVolt : (after (exec .xPvVolt (loaded t35))).map (·.draft.pvVolt) = some (some 65535) := by decide
theorem test_batVolt : (after (exec .xBatVolt (loaded t35))).map (·.draft.batVolt) = some (some 0) := by decide
theorem test_chgCur : (after (exec .xChgCur (loaded t35))).map (·.draft.chgCur) = some (some 1) := by decide
theorem test_loadVolt : (after (exec .xLoadVolt (loaded t35))).map (·.draft.loadVolt) = some (some 256) := by decide
theorem test_loadCur : (after (exec .xLoadCur (loaded t35))).map (·.draft.loadCur) = some (some 255) := by decide
theorem test_chgPower : (after (exec .xChgPower (loaded t35))).map (·.draft.chgPower) = some (some 65535) := by decide
theorem test_loadPower : (after (exec .xLoadPower (loaded t35))).map (·.draft.loadPower) = some (some 0) := by decide
theorem test_extTemp : (after (exec .xExtTemp (loaded t35))).map (·.draft.extTemp) = some (some 210) := by decide
/-- V-X25 inside V-X30: raw 200 is -56. -/
theorem test_intTemp :
    (after (exec .xIntTemp (loaded t35))).map (·.draft.intTemp.map BitVec.toInt) = some (some (-56)) := by decide
/-- V-X22, V-X24, V-X26, V-X27. -/
theorem test_s8t200 :
    (s8t200 0x80).toInt = 128 ∧ (s8t200 0xC7).toInt = 199 ∧ (s8t200 0xD2).toInt = -46 ∧ (s8t200 0xFF).toInt = -1 := by
  decide
theorem test_soc : (after (exec .xSoc (loaded t35))).map (·.draft.soc) = some (some 255) := by decide
theorem test_co2Gram : (after (exec .xCo2Gram (loaded t35))).map (·.draft.co2Gram) = some (some 4660) := by decide
/-- V-X9: the byte order. -/
theorem test_byte_order : u16le 0x12 0x34 = 0x3412 := by decide
/-- R128's example, in bytes. -/
theorem test_labels :
    (after (exec .xLabels (ready State.reset))).map (fun s => (s.draft.devName, s.draft.tempLabel)) =
      some (some [0x61], some [0x62]) := by decide
/-- V-X7: 3 tenths, exactly. -/
theorem test_tenths : fieldValue { t35Regs with pvVolt := 3 } .pvVolt = 3 / 10 := by decide +kernel

/-- A record ready for delivery: that of V-X30. -/
def drafted : State :=
  { State.reset with draft :=
    { chgMode := some 3, pvVolt := some 65535, batVolt := some 0, chgCur := some 1, loadVolt := some 256,
      loadCur := some 255, chgPower := some 65535, loadPower := some 0, extTemp := some 210, intTemp := some 456,
      soc := some 255, co2Gram := some 4660, devName := some [0x61], tempLabel := some [0x62] } }

/-- R130 on the record of V-X30. -/
theorem test_notify :
    (after (exec .dNotify drafted)).map (fun s => (s.regs, s.output)) =
      some (some t35Regs, [.notify ⟨t35Regs, [0x61], [0x62]⟩]) := by decide
/-- R131. -/
theorem test_discard_record : after (exec .dDiscard drafted) = some drafted := by decide

/-! The host operations. -/

/-- V-H1, from the middle of a frame. -/
theorem test_reset :
    after (exec .hReset (ready (mid [1, 1, 3, 0, 0x22] (some 40)))) = some State.reset := by decide
/-- V-H6. -/
theorem test_register_sink : after (exec .hRegisterSink (ready State.reset)) = some (ready State.reset) := by decide
/-- R143's example, in bytes. -/
theorem test_set_labels :
    (after (exec (.hSetLabels [7] [8]) State.reset)).map (fun s => (s.devName, s.tempLabel)) =
      some (some [7], some [8]) := by decide
/-- V-H5. -/
theorem test_feed_empty : after (exec (.hFeed []) (ready State.reset)) = some (ready State.reset) := by decide
/-- The least frame of 2.1, from its length byte on: the next sentinel starts a new frame. -/
theorem test_feed :
    (after (exec (.hFeed [0x00, 0xAA, 0xAA]) (mid [9, 9, 9, 9] none))).map (fun s => (s.st, s.len, s.output)) =
      some (.accumulatingFrame, 0, [.frame [9, 9, 9, 9, 0, 0xAA]]) := by decide
/-- R18: no record yet. -/
theorem test_read_rec_refused : (readRec State.reset).toOption = none := by decide

/-! Witnesses: for each statement with hypotheses, a concrete state and operands that meet all of them; several at
the ends of a range, one for each clause. -/

/-- `StateInv`, as a test that evaluates. -/
def invCheck (s : State) : Bool :=
  (match s.st with
    | .awaitingStart => s.len == 0 && s.tgt == none
    | .accumulatingFrame => decide (s.len.toNat ≤ 260) && (s.tgt.isSome == decide (5 ≤ s.len.toNat))) &&
  (match s.tgt, Memory.read s.buf 4 with
    | none, _ => true
    | some t, some b => t.toNat == 6 + b.toNat && decide (s.len.toNat < t.toNat)
    | some _, none => false) &&
  Memory.wf s.buf && (List.range s.len.toNat).all (fun i => (Memory.read s.buf i).isSome) &&
  s.frameLen == none && s.draft == {}

theorem inv_of_check {s : State} (h : invCheck s = true) : StateInv s := by
  simp only [invCheck, Bool.and_eq_true, beq_iff_eq, List.all_eq_true, List.mem_range] at h
  obtain ⟨⟨⟨⟨⟨h1, h2⟩, h3⟩, h4⟩, h5⟩, h6⟩ := h
  refine ⟨⟨fun hs => ?_, fun hs => ?_, fun hs => ?_, fun t ht => ?_⟩, h3, h4, h5, h6⟩
  · simpa [hs] using h1
  · simp [hs] at h1; exact h1.1
  · simp [hs] at h1; rw [h1.2]; simp
  · simp only [ht] at h2
    cases hb : Memory.read s.buf 4 with
    | none => simp [hb] at h2
    | some b =>
      simp [hb] at h2
      have := b.isLt
      exact ⟨b, rfl, h2.1, by omega, by omega, h2.2⟩

/-- One byte before the end of the least frame (V-A8). -/
def lastOfLeast : State := mid [9, 9, 9, 9, 0] (some 6)

/-- One byte before the end of `T35`, with consumer and labels. -/
def lastOfT35 : State := ready (mid (t35.take 34) (some 35))

/-- One byte before the end of a frame of the greatest length (V-A12). -/
def lastOfGreatest : State :=
  { State.reset with
    st := .accumulatingFrame
    len := 260
    tgt := some 261
    buf := (List.range 260).map fun i => (i, if i = 4 then 0xFF else 0) }

theorem inv_reset : StateInv State.reset := inv_of_check (by decide)
theorem inv_lastOfLeast : StateInv lastOfLeast := inv_of_check (by decide)
theorem inv_lastOfT35 : StateInv lastOfT35 := inv_of_check (by decide)
set_option maxRecDepth 20000 in
theorem inv_lastOfGreatest : StateInv lastOfGreatest := inv_of_check (by decide +kernel)

/-- `s` with one event to come. -/
def next (e : Event) (s : State) : State := { s with input := [e] }

theorem witness_reset_clears :
    StateInv { next .reset (ready lastOfLeast) with faultShort := true } ∧
    (after (step { next .reset (ready lastOfLeast) with faultShort := true })).map
      (fun t => (t.st, t.faultShort, t.sinkEn)) = some (.awaitingStart, false, false) :=
  ⟨inv_of_check (by decide), by decide⟩

theorem witness_discard_start : State.reset.st = .awaitingStart ∧ (0x00 : Byte) ≠ 0xAA ∧ (0xAB : Byte) ≠ 0xAA := by
  decide

theorem witness_head :
    (mid [] none).st = .accumulatingFrame ∧ (mid [] none).len.toNat + 1 < 5 ∧
    (mid [1, 1, 3] none).st = .accumulatingFrame ∧ (mid [1, 1, 3] none).len.toNat + 1 < 5 := by decide

theorem witness_latch : (mid [1, 1, 3, 0] none).st = .accumulatingFrame ∧ (mid [1, 1, 3, 0] none).len.toNat + 1 = 5 := by
  decide

/-- The first body byte, and the last one of a frame of the greatest length. -/
theorem witness_body :
    (∃ s : State, s.st = .accumulatingFrame ∧ 6 ≤ s.len.toNat + 1 ∧ s.tgt = some 7 ∧ s.len.toNat + 1 < 7) ∧
    (∃ s : State, s.st = .accumulatingFrame ∧ 6 ≤ s.len.toNat + 1 ∧ s.tgt = some 261 ∧ s.len.toNat + 1 = 260) :=
  ⟨⟨mid [0, 0, 0, 0, 1] (some 7), by decide⟩, ⟨{ lastOfGreatest with len := 259 }, by decide⟩⟩

theorem witness_complete :
    StateInv lastOfLeast ∧ lastOfLeast.st = .accumulatingFrame ∧ lastOfLeast.tgt = some 6 ∧
    lastOfLeast.len.toNat + 1 = (6 : Cnt).toNat ∧ lastOfLeast.data = some [9, 9, 9, 9, 0] ∧
    DeliveryReady lastOfLeast :=
  ⟨inv_lastOfLeast, by decide, by decide, by decide, by decide, fun h => absurd h (by decide)⟩

set_option maxRecDepth 20000 in
theorem witness_complete_greatest :
    StateInv lastOfGreatest ∧ lastOfGreatest.st = .accumulatingFrame ∧ lastOfGreatest.tgt = some 261 ∧
    lastOfGreatest.len.toNat + 1 = (261 : Cnt).toNat ∧ (∃ data, lastOfGreatest.data = some data) :=
  ⟨inv_lastOfGreatest, by decide, by decide, by decide, Option.isSome_iff_exists.mp (by decide +kernel)⟩

/-- The invariants and the data of a state on each path of the `Byte` step. -/
theorem witness_byte_step :
    (StateInv State.reset ∧ State.reset.data = some []) ∧
    (StateInv (mid [1, 1, 3, 0] none) ∧ (mid [1, 1, 3, 0] none).data = some [1, 1, 3, 0]) ∧
    StateInv (mid [0, 0, 0, 0, 1] (some 7)) ∧ (mid [0, 0, 0, 0, 1] (some 7)).data = some [0, 0, 0, 0, 1] :=
  ⟨⟨inv_reset, by decide⟩, ⟨inv_of_check (by decide), by decide⟩, inv_of_check (by decide), by decide⟩

theorem witness_short : (loaded short6).frameLen = some 6 := by decide

theorem witness_telemetry :
    (loaded t35).frameLen = some 35 ∧ 35 ≤ (35 : Cnt).toNat ∧ Memory.slice (loaded t35).buf 0 35 = some t35 ∧
    (loaded t35).sinkEn = false ∧ (ready (loaded t35)).sinkEn = true ∧
    (ready (loaded t35)).devName = some [0x61] ∧ (ready (loaded t35)).tempLabel = some [0x62] := by decide

theorem witness_notify :
    (ready State.reset).sinkEn = true ∧ State.reset.sinkEn = false ∧ drafted.draft.regs? = some t35Regs ∧
    drafted.draft.devName = some [0x61] ∧ drafted.draft.tempLabel = some [0x62] := by decide

/-- A two-byte field of `T35`. -/
theorem twoBytes_t35 (i : Nat) (lo hi : Byte) (h : i + 1 < (35 : Cnt).toNat ∧
    Memory.read (loaded t35).buf i = some lo ∧ Memory.read (loaded t35).buf (i + 1) = some hi) :
    TwoBytesAt (loaded t35) i lo hi := ⟨35, by decide, h.1, h.2.1, h.2.2⟩

theorem witness_word_fields :
    TwoBytesAt (loaded t35) 7 0x03 0x00 ∧ TwoBytesAt (loaded t35) 21 0xFF 0xFF ∧
    TwoBytesAt (loaded t35) 23 0x00 0x00 ∧ TwoBytesAt (loaded t35) 33 0x34 0x12 :=
  ⟨twoBytes_t35 _ _ _ (by decide), twoBytes_t35 _ _ _ (by decide), twoBytes_t35 _ _ _ (by decide),
    twoBytes_t35 _ _ _ (by decide)⟩

theorem witness_tenths_fields :
    TwoBytesAt (loaded t35) 9 0xFF 0xFF ∧ TwoBytesAt (loaded t35) 11 0x00 0x00 ∧
    TwoBytesAt (loaded t35) 13 0x01 0x00 ∧ TwoBytesAt (loaded t35) 17 0x00 0x01 ∧
    TwoBytesAt (loaded t35) 19 0xFF 0x00 :=
  ⟨twoBytes_t35 _ _ _ (by decide), twoBytes_t35 _ _ _ (by decide), twoBytes_t35 _ _ _ (by decide),
    twoBytes_t35 _ _ _ (by decide), twoBytes_t35 _ _ _ (by decide)⟩

/-- The byte fields, and the temperature on both sides of its threshold. -/
theorem witness_byte_fields :
    OneByteAt (loaded t35) 25 0xD2 ∧ OneByteAt (loaded t35) 29 0xFF ∧ OneByteAt (loaded t35) 27 0xC8 ∧
    OneByteAt (loaded (t35.set 27 0xC7)) 27 0xC7 :=
  ⟨⟨35, by decide⟩, ⟨35, by decide⟩, ⟨35, by decide⟩, ⟨35, by decide⟩⟩

theorem witness_layouts : fieldLayout .pvVolt = .u16leDiv10 ∧ fieldLayout .intTemp ≠ .u16leDiv10 := by decide

/-- Two orders of the extractions, and a frame on which they run. -/
theorem witness_orders :
    fieldOps.reverse.Perm fieldOps ∧ (after (inOrder (fieldOps.map exec) (loaded t35))).isSome = true :=
  ⟨List.reverse_perm _, by decide⟩

theorem witness_frame_reads :
    OneByteAt (loaded short6) 5 0x5A ∧ TwoBytesAt (loaded short6) 4 0x00 0x5A ∧
    (loaded short6).frameLen = some 6 ∧ (6 : Cnt).toNat ≤ 6 :=
  ⟨⟨6, by decide⟩, ⟨6, by decide⟩, by decide, by decide⟩

/-- Two buffers that differ in unread bytes only. -/
theorem witness_unread_bytes :
    (∀ i ∈ readIndices, Memory.read (loaded t35).buf i = Memory.read (loaded (t35.set 15 0)).buf i) ∧
    (loaded t35).buf ≠ (loaded (t35.set 15 0)).buf := by decide

theorem witness_step :
    (next (.byte 0xAA) State.reset).input = [.byte 0xAA] ∧ decode (.host (.byte 0xAA)) = .instr (.hByte 0xAA) ∧
    State.reset.input = [] ∧ (after (step (next (.byte 0xAA) State.reset))).isSome = true := by decide

theorem witness_inv_step : StateInv (next (.byte 0x12) lastOfT35) ∧
    (after (step (next (.byte 0x12) lastOfT35))).isSome = true := ⟨inv_of_check (by decide), by decide⟩

theorem witness_ready : StateInv lastOfT35 ∧ DeliveryReady lastOfT35 :=
  ⟨inv_lastOfT35, fun _ => ⟨by decide, by decide⟩⟩

/-- V-H7: telemetry, a consumer, no labels; the last byte of `T35` is 12. -/
theorem witness_no_labels :
    StateInv { lastOfT35 with devName := none } ∧ ({ lastOfT35 with devName := none } : State).sinkEn = true ∧
    lastOfT35.data = some (t35.take 34) ∧ byteAt (t35.take 34 ++ [0x12]) 2 = 3 ∧
    byteAt (t35.take 34 ++ [0x12]) 3 = 0 ∧ 35 ≤ (35 : Cnt).toNat ∧ lastOfT35.tgt = some 35 ∧
    lastOfT35.len.toNat + 1 = (35 : Cnt).toNat ∧ ¬ LabelsSet { lastOfT35 with devName := none } ∧
    after (exec (.hByte 0x12) { lastOfT35 with devName := none }) = none :=
  ⟨inv_of_check (by decide), by decide, by decide, by decide, by decide, by decide, by decide, by decide,
    fun h => absurd h.1 (by decide), by decide⟩

/-- A step that emits a frame, one that delivers, one that sets the mark; and the condition on stores. -/
theorem witness_events :
    (after (step (next (.byte 0x5A) lastOfLeast))).map (fun t => framesOf t.output) =
      some [[9, 9, 9, 9, 0, 0x5A]] ∧
    (after (step (next (.byte 0x12) lastOfT35))).map (fun t => (t.recValid, notifiesOf t.output)) =
      some (true, [⟨t35Regs, [0x61], [0x62]⟩]) ∧
    (after (step (next (.byte 0x5A) (mid [1, 1, 3, 0, 0] (some 6))))).map (·.output) =
      some [.frame short6, .fault .shortTelemetryFrame 6] := by decide

theorem witness_stores :
    (after (exec (.hByte 0x55) State.reset)).isSome = true ∧ State.reset.st = .awaitingStart ∧
    (after (exec (.hByte 0x55) lastOfLeast)).isSome = true ∧ (0 : Nat) ≠ lastOfLeast.len.toNat := by decide

theorem witness_consumer :
    State.reset.recValid = false ∧ ({ State.reset with regs := some t35Regs } : State).recValid = true ∧
    (after (exec .dNotify drafted)).isSome = true ∧
    (after (step (next .reset { State.reset with regs := some t35Regs }))).map (·.recValid) = some false := by decide

theorem witness_quiet :
    conditionOf (.aDiscard 0) = some .framingAmbiguity ∧ conditionOf (.dDrop false 1 0) = some .unrecognizedFrame ∧
    conditionOf .dDiscard = some .noConsumer ∧ Condition.noConsumer ≠ .shortTelemetryFrame := by decide

/-- Inside a frame, before and after its length is known, and at its end. -/
theorem witness_inside :
    (StateInv (mid [] none) ∧ (mid [] none).tgt = none) ∧
    (StateInv (mid [0, 0, 0, 0, 1] (some 7)) ∧ (mid [0, 0, 0, 0, 1] (some 7)).len.toNat + 1 < (7 : Cnt).toNat) ∧
    StateInv lastOfLeast ∧ lastOfLeast.len.toNat + 1 = (6 : Cnt).toNat ∧ DeliveryReady lastOfLeast :=
  ⟨⟨inv_of_check (by decide), by decide⟩, ⟨inv_of_check (by decide), by decide⟩, inv_lastOfLeast, by decide,
    fun h => absurd h (by decide)⟩

theorem witness_frame_ends :
    StateInv (next (.byte 0xAA) lastOfLeast) ∧
    (after (step (next (.byte 0xAA) lastOfLeast))).map (·.st) = some .awaitingStart ∧
    (after (step (next .reset lastOfLeast))).map (·.st) = some .awaitingStart :=
  ⟨inv_of_check (by decide), by decide, by decide⟩

theorem witness_noise : State.reset.st = .awaitingStart ∧ ∀ c ∈ ([0x00, 0xA9, 0xFF] : List Byte), c ≠ 0xAA := by decide

/-- The least and the greatest body, with and without noise before the frame. -/
theorem witness_concatenation :
    StateInv State.reset ∧ State.reset.st = .awaitingStart ∧ DeliveryReady State.reset ∧
    (∀ p ∈ ([([], ⟨1, 1, 3, 0, [], 0x5A⟩), ([0x55], ⟨1, 1, 3, 0, List.replicate 255 0xAA, 0xAA⟩)] :
        List (List Byte × FrameDesc)), p.2.body.length ≤ 255 ∧ ∀ c ∈ p.1, c ≠ 0xAA) ∧
    ∀ c ∈ ([0x00] : List Byte), c ≠ 0xAA :=
  ⟨inv_reset, rfl, fun h => absurd h (by decide), by decide +kernel, by decide⟩

/-- A chunk whose first byte ends a pending frame, and the empty chunk. -/
theorem witness_chunks :
    StateInv lastOfLeast ∧ (after (exec (.hFeed [0x00]) lastOfLeast)).isSome = true ∧
    (after (exec (.hFeed []) lastOfLeast)).isSome = true ∧ StateInv State.reset ∧
    (after (exec (.hFeed [0xAA, 0x00]) State.reset)).isSome = true ∧ ([0xAA, 0x00] : List Byte).length < 36 :=
  ⟨inv_lastOfLeast, by decide, by decide, inv_reset, by decide, by decide⟩

/-- Two idle states that differ in a byte left behind by an earlier frame. -/
theorem witness_dead_bytes :
    StateInv State.reset ∧ StateInv { State.reset with buf := [(0, 0x55)] } ∧
    SameLive State.reset { State.reset with buf := [(0, 0x55)] } :=
  ⟨inv_reset, inv_of_check (by decide),
    ⟨rfl, rfl, rfl, fun _ h => absurd h (Nat.not_lt_zero _), rfl, rfl, rfl, rfl, rfl, rfl, rfl, rfl, rfl⟩⟩

theorem witness_encode : (Instr.dDrop false 3 1).wellFormed = true ∧ (Instr.hFeed [0xAA]).wellFormed = true := by decide

/-- A driver before its first invocation, at time 0, and one that a failure has put into recovery. -/
def driver0 : Driver := { Driver.initial with pollTimer := 0 }
def recovering0 : Driver := { driver0 with mode := .recovering }

/-- An invocation at time `now` that reads one chunk, with every call answered. -/
def call (now : Rat) : Invocation :=
  { now := now, rounds := [⟨.ok 2, .ok [0x00]⟩, ⟨.ok 0, .failed⟩], writing := .ok (), closing := .ok () }

/-- R150: a request goes out a second after the last one and not half a second after it. -/
theorem test_poll :
    (poll (call 1) driver0).actions = [.write .pollRequest (.ok ())] ∧ (poll (call (1 / 2)) driver0).actions = [] := by
  decide +kernel

/-- R150: nothing is read while no bytes are waiting. -/
theorem test_drain_nothing_waiting :
    drain [⟨.ok 0, .ok [0xAA]⟩] (.ok ()) driver0 = .next (driver0.act [.bytesWaiting (.ok 0)]) := rfl

/-- R151, R152: a failed `bytes_waiting` closes the transport and leads to recovery, though the close fails too. -/
theorem test_waiting_failed :
    drain [⟨.failed, .ok []⟩] .failed driver0 =
      .next { driver0.act [.bytesWaiting .failed, .close .failed] with mode := .recovering } := rfl

/-- Draining to the end and to a failure. -/
theorem witness_driver_drain :
    (∃ d, drain (call 1).rounds (.ok ()) driver0 = .next d) ∧ drainFails (call 1).rounds = false ∧
    (∃ d, drain [⟨.ok 1, .failed⟩] (.ok ()) driver0 = .next d) ∧ drainFails [⟨.ok 1, .failed⟩] = true :=
  ⟨⟨_, rfl⟩, rfl, ⟨_, rfl⟩, rfl⟩

/-- Invocations on both sides of the second, and one whose write fails. -/
theorem witness_driver_invoke :
    driver0.mode = .normal ∧ (call 1).writing = .ok () ∧ (∃ d, invoke (call 1) driver0 = .next d) ∧
    (∃ d, invoke (call (1 / 2)) driver0 = .next d) ∧
    ∃ d, invoke { call 1 with writing := .failed } driver0 = .next d ∧ d.mode = .recovering :=
  ⟨rfl, rfl, ⟨_, rfl⟩, ⟨_, rfl⟩, ⟨_, rfl, by decide +kernel⟩⟩

/-- The four ways a recovery attempt goes. -/
theorem witness_recovery :
    recovering0.mode = .recovering ∧ (∃ d, attempt (.openFailed .failed) recovering0 = .next d) ∧
    (∃ d, attempt (.readFailed (.ok ())) recovering0 = .next d) ∧
    (∃ d, attempt (.noBytes (.ok ())) recovering0 = .next d) ∧
    ∃ d, attempt (.bytes 0x00 []) recovering0 = .next d := by
  refine ⟨rfl, ⟨_, rfl⟩, ⟨_, rfl⟩, ⟨_, rfl⟩, ?_⟩
  simp only [attempt, recovering0]
  split
  · exact ⟨_, rfl⟩
  · exact ⟨_, rfl⟩

/-- A recovery that goes on, and one that ends. -/
theorem witness_recover :
    (∃ d, recover [.noBytes (.ok ()), .openFailed (.ok ())] recovering0 = .next d ∧ d.mode = .recovering) ∧
    ∃ d, recover [.noBytes (.ok ()), .bytes 0x00 []] recovering0 = .next d ∧ d.mode = .normal := by
  refine ⟨⟨_, rfl, rfl⟩, ?_⟩
  simp only [recover, attempt, recovering0, failAttempt, Driver.act]
  generalize Config.probeBytesFed = fed
  cases fed <;> exact ⟨_, rfl, rfl⟩

end Sys2Proof.Tests
end

section
/-! The output of a step: R9's event shapes, from the assembler's completing byte outwards. -/

namespace Sys2Proof.Machine

/-- What `Decode` adds to the output, whatever the state (R110, R111): nothing, one `Fault` or one `Notify`. -/
theorem decodeFrame_output {s t : State} (h : decodeFrame s = .next t) :
    t.output = s.output ∨ (∃ n, t.output = s.output ++ [.fault .shortTelemetryFrame n]) ∨
      ∃ r, t.output = s.output ++ [.notify r] := by
  obtain ⟨d, rfl⟩ | ⟨n, -, rfl⟩ | ⟨d, r, rfl⟩ := decodeFrame_cases h
  · exact .inl rfl
  · exact .inr (.inl ⟨n, rfl⟩)
  · exact .inr (.inr ⟨r, rfl⟩)

/-- A_COMPLETE (R97): the byte is stored, the whole buffer up to it is the frame, and `Decode` follows. -/
theorem execAComplete_eq_next {c : Byte} {s t : State} :
    execAComplete c s = .next t ↔ s.len.toNat < 261 ∧ ∃ frame u,
      Memory.slice (Memory.write s.buf s.len.toNat c) 0 (s.len + 1).toNat = some frame ∧
      decodeFrame (((s.setBuf (Memory.write s.buf s.len.toNat c)).emit (.frame frame)).toIdle.setFrameLen
        (some (s.len + 1))) = .next u ∧ t = u.endDecode := by
  unfold execAComplete
  simp only [andThen_eq_next, memWrite_eq_next, handOver_eq_next]
  constructor
  · rintro ⟨_, ⟨hlen, rfl⟩, _, ⟨frame, hframe, rfl⟩, u, hu, ht⟩
    cases ht
    exact ⟨hlen, frame, u, hframe, hu, rfl⟩
  · rintro ⟨hlen, frame, u, hframe, hu, rfl⟩
    exact ⟨_, ⟨hlen, rfl⟩, _, ⟨frame, hframe, rfl⟩, u, hu, rfl⟩

/-- A step leading from `s` to `t` only adds events, in one of R9's four shapes. -/
def AddsStepEvents (s t : State) : Prop := ∃ events, t.output = s.output ++ events ∧ StepEvents events

theorem addsStepEvents_of_output_eq {s t : State} (h : t.output = s.output) : AddsStepEvents s t :=
  ⟨[], by rw [h, List.append_nil], .inl rfl⟩

theorem storeNext_output {c : Byte} {s t : State} (h : storeNext c s = .next t) : t.output = s.output := by
  obtain ⟨-, rfl⟩ := storeNext_eq_next.mp h
  rfl

/-- Completing a frame emits it, and after it what its decoding emits (R105, R111). -/
theorem execAComplete_addsStepEvents {c : Byte} {s t : State} (h : execAComplete c s = .next t) :
    AddsStepEvents s t := by
  obtain ⟨-, frame, u, -, hu, rfl⟩ := execAComplete_eq_next.mp h
  obtain hout | ⟨n, hout⟩ | ⟨r, hout⟩ := decodeFrame_output hu
  · exact ⟨[.frame frame], by simp [hout], .inr (.inl ⟨frame, rfl⟩)⟩
  · exact ⟨[.frame frame, .fault .shortTelemetryFrame n], by simp [hout], .inr (.inr (.inr ⟨frame, n, rfl⟩))⟩
  · exact ⟨[.frame frame, .notify r], by simp [hout], .inr (.inr (.inl ⟨frame, r, rfl⟩))⟩

/-- Of the six assembler operations only A_COMPLETE emits anything (R92 to R97). -/
theorem execHByte_addsStepEvents {c : Byte} {s t : State} (h : execHByte c s = .next t) : AddsStepEvents s t := by
  unfold execHByte at h
  cases hop : selectByte (byteSel s c) <;> rw [hop] at h
  case start => cases h; exact addsStepEvents_of_output_eq rfl
  case discard => cases h; exact addsStepEvents_of_output_eq rfl
  case head => exact addsStepEvents_of_output_eq (storeNext_output h)
  case latch => cases h; exact addsStepEvents_of_output_eq rfl
  case body => exact addsStepEvents_of_output_eq (storeNext_output h)
  case complete => exact execAComplete_addsStepEvents h

/-- A step that has an event takes it and performs the operation it decodes to (R9, R140). -/
theorem step_of_input_cons {s : State} {e : Event} {rest : List Event} (h : s.input = e :: rest) :
    step s = exec (decodeEvent e) (s.setInput rest) := by
  simp only [step, fetchEvent, h]

/-- With no event left a step changes nothing (log entry 2). -/
theorem step_of_input_nil {s : State} (h : s.input = []) : step s = .next s := by
  simp only [step, fetchEvent, h]

/-- Settles O35: by the kind of the event; only a byte emits events, and only the one that completes a frame. -/
theorem stepEventsAreOrdered : Obligations.StepEventsAreOrdered := by
  intro s t h
  obtain ⟨-, rfl⟩ | ⟨c, rest, -, hbyte⟩ | ⟨rest, -, rfl⟩ | ⟨rest, -, rfl⟩ | ⟨rest, a, b, -, rfl⟩ := step_cases h
  · exact addsStepEvents_of_output_eq rfl
  · have hevents : AddsStepEvents (s.setInput rest) t := execHByte_addsStepEvents hbyte
    exact hevents
  · exact addsStepEvents_of_output_eq rfl
  · exact addsStepEvents_of_output_eq rfl
  · exact addsStepEvents_of_output_eq rfl

/-- Settles O30: an event's word always decodes, to its HOST operation. -/
theorem stepRunsTheDecodedEvent : Obligations.StepRunsTheDecodedEvent := by
  refine ⟨?_, fun s => step_of_input_nil⟩
  intro s e rest i hin hdec
  obtain rfl : decodeEvent e = i := Decoded.instr.inj hdec
  exact step_of_input_cons hin

end Sys2Proof.Machine
end

section
/-! The invariants of the state between steps (R15): they hold at reset, and every step keeps them. -/

namespace Sys2Proof.Machine

/-- The reset table holds whatever the host has still to present and whatever was emitted (log entry 11). -/
theorem resetTable_reset (input : List Event) (output : List OutEvent) :
    ResetTable ((State.reset.setInput input).setOutput output) :=
  ⟨rfl, rfl, rfl, rfl, fun _ => rfl, rfl, rfl, rfl, rfl, rfl, rfl⟩

/-- Settles O1: H_RESET loads `State.reset`, whose fields are the table's. -/
theorem resetValuesAreTheTable : Obligations.ResetValuesAreTheTable :=
  ⟨resetTable_reset [] [], fun s => ⟨_, rfl, resetTable_reset s.input s.output⟩⟩

/-- With no byte accumulated and no target, idle or just started, I1 to I4 ask nothing more. -/
theorem stateInv_of_empty {s : State} (hlen : s.len = 0) (htgt : s.tgt = none) (hwf : Memory.wf s.buf = true)
    (hidle : s.frameLen = none ∧ s.draft = {}) : StateInv s where
  assembler :=
    { i1 := fun _ => ⟨hlen, htgt⟩
      i2 := fun _ => by simp [hlen]
      i3 := fun _ => by simp [hlen, htgt]
      i4 := fun v hv => by simp [htgt] at hv }
  wf := hwf
  live := fun i hi => by simp [hlen] at hi
  idleDecoder := hidle

/-- The invariants at reset, whatever the host has still to present and whatever was emitted. -/
theorem stateInv_reset (input : List Event) (output : List OutEvent) :
    StateInv ((State.reset.setInput input).setOutput output) :=
  stateInv_of_empty rfl rfl State.reset_wf ⟨rfl, rfl⟩

/-- Settles O2: nothing is accumulated at reset, and the buffer is empty. -/
theorem resetMeetsInvariant : Obligations.ResetMeetsInvariant := stateInv_reset [] []

/-- The invariants speak of the assembler, the buffer and the decoder alone. -/
theorem StateInv.congr {s t : State} (h : StateInv s) (hst : t.st = s.st) (hlen : t.len = s.len)
    (htgt : t.tgt = s.tgt) (hbuf : t.buf = s.buf) (hframe : t.frameLen = s.frameLen)
    (hdraft : t.draft = s.draft) : StateInv t where
  assembler :=
    { i1 := by rw [hst, hlen, htgt]; exact h.assembler.i1
      i2 := by rw [hst, hlen]; exact h.assembler.i2
      i3 := by rw [hst, hlen, htgt]; exact h.assembler.i3
      i4 := by rw [hlen, htgt, hbuf]; exact h.assembler.i4 }
  wf := by rw [hbuf]; exact h.wf
  live := by rw [hlen, hbuf]; exact h.live
  idleDecoder := by rw [hframe, hdraft]; exact h.idleDecoder

/-- A store at `len` makes every index up to it live. -/
theorem StateInv.live_write {s : State} (h : StateInv s) (c : Byte) {i : Nat} (hi : i < s.len.toNat + 1) :
    (Memory.read (Memory.write s.buf s.len.toNat c) i).isSome = true := by
  rw [Memory.read_write]
  split
  · rfl
  · exact h.live i (by omega)

/-- A_HEAD and A_BODY keep the invariants: the length byte at index 4 is not overwritten, and the target is not
reached (R94, R96). -/
theorem StateInv.storeNext {c : Byte} {s t : State} (h : StateInv s) (hst : s.st = .accumulatingFrame)
    (h4 : s.len.toNat ≠ 4) (hle : s.len.toNat + 1 ≤ 260) (htgt : ∀ v, s.tgt = some v → s.len.toNat + 1 < v.toNat)
    (ht : storeNext c s = .next t) : StateInv t := by
  obtain ⟨-, rfl⟩ := storeNext_eq_next.mp ht
  have hlen : (s.len + 1).toNat = s.len.toNat + 1 := by
    rw [BitVec.toNat_add_of_lt] <;> simp; omega
  refine ⟨⟨?_, ?_, ?_, ?_⟩, ?_, ?_, h.idleDecoder⟩
  · intro hidle
    rw [State.st_setLen, State.st_setBuf, hst] at hidle
    cases hidle
  · intro _
    rwa [State.len_setLen, hlen]
  · intro _
    have hi3 := h.assembler.i3 hst
    simp only [State.tgt_setLen, State.tgt_setBuf, State.len_setLen, hlen, hi3]
    omega
  · intro v hv
    obtain ⟨b, hb, hvb, hlo, hhi, -⟩ := h.assembler.i4 v hv
    refine ⟨b, ?_, hvb, hlo, hhi, ?_⟩
    · exact (Memory.read_write_other _ _ _ _ (Ne.symm h4)).trans hb
    · simpa only [State.len_setLen, hlen] using htgt v hv
  · exact Memory.wf_write (by unfold bufBytes; omega) h.wf
  · intro i hi
    rw [State.len_setLen, hlen] at hi
    exact h.live_write c hi

/-- A_LATCH keeps the invariants: it stores the length byte and fixes the target by it (R95). -/
theorem StateInv.latch {c : Byte} {s t : State} (h : StateInv s) (hst : s.st = .accumulatingFrame)
    (h4 : s.len.toNat = 4) (ht : execALatch c s = .next t) : StateInv t := by
  cases ht
  have hc := c.isLt
  refine ⟨⟨?_, ?_, ?_, ?_⟩, ?_, ?_, h.idleDecoder⟩
  · intro hidle
    exact absurd (hst.symm.trans hidle) (by decide)
  · intro _
    simp
  · intro _
    simp
  · intro v hv
    cases hv
    rw [toNat_targetLen]
    exact ⟨c, Memory.read_write_same _ _ _, rfl, by omega, by omega, by simp; omega⟩
  · exact Memory.wf_write (by decide) h.wf
  · intro i hi
    have hlive := h.live_write c (i := i)
    rw [h4] at hlive
    exact hlive hi

/-- What `Decode` leaves of the assembler: all of it (R110, R111). -/
theorem decodeFrame_assembler {s t : State} (h : decodeFrame s = .next t) :
    t.st = s.st ∧ t.len = s.len ∧ t.tgt = s.tgt ∧ t.buf = s.buf := by
  obtain ⟨d, rfl⟩ | ⟨n, -, rfl⟩ | ⟨d, r, rfl⟩ := decodeFrame_cases h <;> exact ⟨rfl, rfl, rfl, rfl⟩

/-- A_COMPLETE keeps the invariants: the assembler is idle and empty after it, the decode over (R97). -/
theorem StateInv.complete {c : Byte} {s t : State} (h : StateInv s) (ht : execAComplete c s = .next t) :
    StateInv t := by
  obtain ⟨hlt, frame, u, -, hu, rfl⟩ := execAComplete_eq_next.mp ht
  obtain ⟨-, hlen, htgt, hbuf⟩ := decodeFrame_assembler hu
  refine stateInv_of_empty hlen htgt ?_ ⟨rfl, rfl⟩
  rw [State.buf_endDecode, hbuf]
  exact Memory.wf_write hlt h.wf

/-- A byte keeps the invariants, by the six paths of R91. -/
theorem StateInv.byte {c : Byte} {s t : State} (h : StateInv s) (ht : execHByte c s = .next t) : StateInv t := by
  rw [execHByte_eq] at ht
  cases hst : s.st <;> simp only [hst] at ht
  case awaitingStart =>
    split at ht <;> cases ht
    · exact stateInv_of_empty rfl rfl h.wf h.idleDecoder
    · exact h
  case accumulatingFrame =>
    have hi3 := h.assembler.i3 hst
    split_ifs at ht with hhead hlatch htgt
    · refine h.storeNext hst (by omega) (by omega) (fun v hv => ?_) ht
      have := hi3.mp (by rw [hv]; rfl)
      omega
    · exact h.latch hst (by omega) ht
    · exact h.complete ht
    · obtain ⟨v, hv⟩ := Option.isSome_iff_exists.mp (hi3.mpr (by omega))
      obtain ⟨b, -, -, -, hle, hlt⟩ := h.assembler.i4 v hv
      have hne : v.toNat ≠ s.len.toNat + 1 := by simpa [hv] using htgt
      refine h.storeNext hst (by omega) (by omega) (fun w hw => ?_) ht
      cases hv.symm.trans hw
      omega

/-- Settles O31: by the kind of the event; only a byte and a reset touch what the invariants speak of. -/
theorem stepKeepsInvariant : Obligations.StepKeepsInvariant := by
  intro s t h ht
  obtain ⟨-, rfl⟩ | ⟨c, rest, -, hbyte⟩ | ⟨rest, -, rfl⟩ | ⟨rest, -, rfl⟩ | ⟨rest, a, b, -, rfl⟩ := step_cases ht
  · exact h
  · have hinput : StateInv (s.setInput rest) := h.congr rfl rfl rfl rfl rfl rfl
    exact hinput.byte hbyte
  · exact stateInv_reset rest s.output
  · exact h.congr rfl rfl rfl rfl rfl rfl
  · exact h.congr rfl rfl rfl rfl rfl rfl

end Sys2Proof.Machine
end

section
/-! The record registers (R18, R21): only a reset and a delivery change them. -/

namespace Sys2Proof.Machine

/-- From `s` to `t` the record registers stay, or they become the record a completed frame delivered. -/
def RegsStayOrDelivered (s t : State) : Prop :=
  t.regs = s.regs ∨ ∃ f r, t.output = s.output ++ [.frame f, .notify r] ∧ t.regs = some r.regs

theorem storeNext_regs {c : Byte} {s t : State} (h : storeNext c s = .next t) : t.regs = s.regs := by
  obtain ⟨-, rfl⟩ := storeNext_eq_next.mp h
  rfl

/-- Completing a frame changes `REC` only by delivering the frame's record (R130). -/
theorem execAComplete_regs {c : Byte} {s t : State} (h : execAComplete c s = .next t) : RegsStayOrDelivered s t := by
  obtain ⟨-, frame, u, -, hu, rfl⟩ := execAComplete_eq_next.mp h
  obtain ⟨d, rfl⟩ | ⟨n, -, rfl⟩ | ⟨d, r, rfl⟩ := decodeFrame_cases hu
  · exact .inl rfl
  · exact .inl rfl
  · exact .inr ⟨frame, r, by simp, rfl⟩

/-- Of the six assembler operations only A_COMPLETE can touch `REC` (R92 to R97). -/
theorem execHByte_regs {c : Byte} {s t : State} (h : execHByte c s = .next t) : RegsStayOrDelivered s t := by
  unfold execHByte at h
  cases hop : selectByte (byteSel s c) <;> rw [hop] at h
  case start => cases h; exact .inl rfl
  case discard => cases h; exact .inl rfl
  case head => exact .inl (storeNext_regs h)
  case latch => cases h; exact .inl rfl
  case body => exact .inl (storeNext_regs h)
  case complete => exact execAComplete_regs h

/-- Settles O38: by the kind of the event. -/
theorem recordRegistersChangeTogether : Obligations.RecordRegistersChangeTogether := by
  intro s t h
  obtain ⟨-, rfl⟩ | ⟨c, rest, -, hbyte⟩ | ⟨rest, hin, rfl⟩ | ⟨rest, -, rfl⟩ | ⟨rest, a, b, -, rfl⟩ := step_cases h
  · exact .inl rfl
  · exact (execHByte_regs hbyte).imp_right .inr
  · exact .inr (.inl ⟨by rw [hin]; rfl, rfl⟩)
  · exact .inl rfl
  · exact .inl rfl

/-- A delivery leaves a record to read (R130). -/
theorem execDNotify_recValid {s t : State} (h : execDNotify s = .next t) : t.recValid = true := by
  obtain ⟨r, a, b, -, -, -, rfl⟩ := execDNotify_eq_next.mp h
  rfl

theorem readRec_of_recValid_false {s : State} (h : s.recValid = false) : readRec s = .error .recordNotValid := by
  have hregs : s.regs = none := by simpa [State.recValid] using h
  simp only [readRec, hregs]

theorem readRec_of_recValid {s : State} (h : s.recValid = true) : ∃ r, s.regs = some r ∧ readRec s = .ok r := by
  obtain ⟨r, hr⟩ := Option.isSome_iff_exists.mp h
  exact ⟨r, hr, by simp only [readRec, hr]⟩

/-- Settles O39: `rec_valid` is the presence of the registers, which O38 says how a step changes. -/
theorem consumerReadsTheRecord : Obligations.ConsumerReadsTheRecord := by
  refine ⟨rfl, fun s => readRec_of_recValid_false, fun s => readRec_of_recValid, fun s t => execDNotify_recValid,
    fun s t h => ?_⟩
  obtain hstay | ⟨hreset, hnone⟩ | ⟨f, r, hout, hsome⟩ := recordRegistersChangeTogether s t h
  · have hvalid : t.recValid = s.recValid := congrArg Option.isSome hstay
    rw [hvalid]
    exact ⟨fun h0 h1 => absurd (h0.symm.trans h1) (by decide), fun h1 h0 => absurd (h0.symm.trans h1) (by decide)⟩
  · have hvalid : t.recValid = false := congrArg Option.isSome hnone
    simp [hvalid, hreset]
  · have hvalid : t.recValid = true := congrArg Option.isSome hsome
    simp [hvalid, hout]

end Sys2Proof.Machine
end

section
/-! Two runs side by side: a relation of states that every operation respects. -/

namespace Sys2Proof.Machine

@[simp] theorem sameOutcome_next {R : State → State → Prop} {a b : State} :
    SameOutcome R (.next a) (.next b) ↔ R a b := Iff.rfl
@[simp] theorem sameOutcome_fault {R : State → State → Prop} {r q : Fault} :
    SameOutcome R (.fault r) (.fault q) ↔ r = q := Iff.rfl
@[simp] theorem sameOutcome_refused {R : State → State → Prop} {r q : Refusal} :
    SameOutcome R (.refused r) (.refused q) ↔ r = q := Iff.rfl

/-- Two sequences of operations side by side: the first parts, then the second parts where both go on. -/
theorem SameOutcome.andThen {R S : State → State → Prop} {o p : Result} {f g : State → Result}
    (h : SameOutcome R o p) (hfg : ∀ a b, o = .next a → R a b → SameOutcome S (f a) (g b)) :
    SameOutcome S (andThen o f) (andThen p g) := by
  unfold SameOutcome at h
  split at h
  · exact hfg _ _ rfl h
  · exact h
  · exact h
  · exact h.elim

/-- From related states the operation has outcomes of the same kind, and next states related again. -/
def Respects (R : State → State → Prop) (op : State → Result) : Prop :=
  ∀ a b, R a b → SameOutcome R (op a) (op b)

theorem respects_inOrder {R : State → State → Prop} (ops : List (State → Result)) (h : ∀ op ∈ ops, Respects R op) :
    Respects R (inOrder ops) := by
  induction ops with
  | nil => exact fun _ _ hab => hab
  | cons op ops ih =>
    obtain ⟨hop, hops⟩ := List.forall_mem_cons.mp h
    exact fun a b hab => (hop a b hab).andThen fun a' b' _ => ih hops a' b'

/-- The record being built with other labels. -/
def Draft.setLabels (d : Draft) (name label : Option Label) : Draft := { d with devName := name, tempLabel := label }

/-- A field operation's write into the record being built that does not depend on the record's labels. -/
def NumericPut {α : Type} (put : Draft → α → Draft) : Prop :=
  ∀ d v name label, put (d.setLabels name label) v = (put d v).setLabels name label

/-- A relation between two states that no part of the decoder can tell apart (R110 to R131). -/
structure DecoderRelation (R : State → State → Prop) : Prop where
  frameLen : ∀ {a b}, R a b → b.frameLen = a.frameLen
  read : ∀ {a b}, R a b → ∀ i ∈ readIndices, memRead1 i b = memRead1 i a
  sinkEn : ∀ {a b}, R a b → b.sinkEn = a.sinkEn
  put : ∀ {a b} {α : Type} (v : α) {put : Draft → α → Draft}, NumericPut put → R a b →
    R (a.setDraft (put a.draft v)) (b.setDraft (put b.draft v))
  labels : Respects R execXLabels
  notify : Respects R execDNotify
  short : ∀ {a b} (n : Cnt), R a b → R (raiseShort n a) (raiseShort n b)

namespace DecoderRelation

variable {R : State → State → Prop}

theorem loadField {α : Type} (h : DecoderRelation R) {value : State → Except Fault α} {put : Draft → α → Draft}
    (hvalue : ∀ {a b}, R a b → value b = value a) (hput : NumericPut put) :
    Respects R (fun s => loadField (value s) put s) := by
  intro a b hab
  simp only [hvalue hab]
  cases value a with
  | error f => exact rfl
  | ok v => exact h.put v hput hab

/-- A one-byte field operation; the record's field may be any function of the byte. -/
theorem byteField (h : DecoderRelation R) {put : Draft → Byte → Draft} (hput : NumericPut put) (i : Nat)
    (hi : i ∈ readIndices) : Respects R (fun s => Machine.loadField (memRead1 i s) put s) :=
  h.loadField (fun hab => h.read hab i hi) hput

/-- A two-byte field operation. -/
theorem wordField (h : DecoderRelation R) {put : Draft → Half → Draft} (hput : NumericPut put) (i : Nat)
    (hi : i ∈ readIndices ∧ i + 1 ∈ readIndices) : Respects R (fun s => Machine.loadField (memRead2 i s) put s) :=
  h.loadField (fun hab => by simp only [memRead2, h.read hab i hi.1, h.read hab (i + 1) hi.2]) hput

/-- Each of the thirteen field operations reads at its own indices (R65). -/
theorem extractions (h : DecoderRelation R) : ∀ op ∈ extractions, Respects R op := by
  simp only [Machine.extractions, List.forall_mem_cons]
  refine ⟨?_, ?_, ?_, ?_, ?_, ?_, ?_, ?_, ?extTemp, ?intTemp, ?soc, ?_, h.labels, List.forall_mem_nil _⟩
  case extTemp => exact h.byteField (fun _ _ _ _ => rfl) _ (by decide)
  case intTemp => exact h.byteField (fun _ _ _ _ => rfl) _ (by decide)
  case soc => exact h.byteField (fun _ _ _ _ => rfl) _ (by decide)
  all_goals exact h.wordField (fun _ _ _ _ => rfl) _ (by decide)

theorem deliver (h : DecoderRelation R) : Respects R deliver := by
  intro a b hab
  rw [deliver_eq, deliver_eq, h.sinkEn hab]
  split
  · exact h.notify a b hab
  · exact hab

theorem telem (h : DecoderRelation R) : Respects R execDTelem := fun a b hab =>
  (respects_inOrder _ h.extractions a b hab).andThen fun a' b' _ => h.deliver a' b'

theorem dShort (h : DecoderRelation R) : Respects R execDShort := by
  intro a b hab
  unfold execDShort
  rw [h.frameLen hab]
  cases a.frameLen with
  | none => exact rfl
  | some n => exact h.short n hab

/-- `Decode` selects the same frame outcome on both sides, and each outcome respects the relation. -/
theorem decodeFrame (h : DecoderRelation R) : Respects R decodeFrame := by
  intro a b hab
  unfold Machine.decodeFrame
  rw [h.frameLen hab, h.read hab srcIndex (by decide), h.read hab typIndex (by decide)]
  cases a.frameLen with
  | none => exact rfl
  | some n =>
    cases memRead1 srcIndex a with
    | error f => exact rfl
    | ok src =>
      cases memRead1 typIndex a with
      | error f => exact rfl
      | ok typ =>
        simp only [frameOutcome]
        cases selectFrame (frameSel n src typ)
        · exact h.telem a b hab
        · exact h.dShort a b hab
        · exact hab

end DecoderRelation
end Sys2Proof.Machine
end

section
/-! Dead bytes: the buffer from index `len` on is never observed (R14, R25 a, R52). -/

namespace Sys2Proof.Machine

/-- `b` is `a` with the buffer `m`, and the decoder's reads of the completed frame are the same. -/
def BufferReplaced (m : Memory) (a b : State) : Prop :=
  b = a.setBuf m ∧ ∀ i ∈ readIndices, memRead1 i b = memRead1 i a

theorem bufferReplaced_decoderRelation (m : Memory) : DecoderRelation (BufferReplaced m) where
  frameLen := by rintro a b ⟨rfl, -⟩; rfl
  read := fun h => h.2
  sinkEn := by rintro a b ⟨rfl, -⟩; rfl
  put := by rintro a b α v put - ⟨rfl, hread⟩; exact ⟨rfl, hread⟩
  labels := by rintro a b ⟨rfl, hread⟩; exact ⟨rfl, hread⟩
  notify := by
    rintro a b ⟨rfl, hread⟩
    unfold execDNotify
    simp only [State.draft_setBuf]
    split
    · exact rfl
    · exact ⟨rfl, hread⟩
    · exact rfl
  short := by rintro a b n ⟨rfl, hread⟩; exact ⟨rfl, hread⟩

/-- `b` is `a` but for the buffer, which agrees below index `k`. -/
def SameBelow (k : Nat) (a b : State) : Prop :=
  ∃ m, b = a.setBuf m ∧ ∀ i, i < k → Memory.read a.buf i = Memory.read m i

theorem SameBelow.mono {j k : Nat} {a b : State} (hjk : j ≤ k) : SameBelow k a b → SameBelow j a b := by
  rintro ⟨m, rfl, hread⟩
  exact ⟨m, rfl, fun i hi => hread i (by omega)⟩

/-- The live bytes are those below `len` (R14). -/
theorem sameLive_iff {a b : State} : SameLive a b ↔ SameBelow a.len.toNat a b := by
  constructor
  · rintro ⟨hst, hlen, htgt, hlive, hsink, hfault, hregs, hdev, htemp, hframe, hdraft, hin, hout⟩
    refine ⟨b.buf, ?_, hlive⟩
    cases a
    cases b
    simp_all [State.setBuf]
  · rintro ⟨m, rfl, hlive⟩
    exact ⟨rfl, rfl, rfl, hlive, rfl, rfl, rfl, rfl, rfl, rfl, rfl, rfl, rfl⟩

/-- A store at the bound makes the buffers agree on one more index. -/
theorem SameBelow.memWrite {k : Nat} (c : Byte) {a b : State} :
    SameBelow k a b → SameOutcome (SameBelow (k + 1)) (memWrite k c a) (memWrite k c b) := by
  rintro ⟨m, rfl, hread⟩
  unfold Machine.memWrite
  split
  · refine ⟨Memory.write m k c, rfl, fun i hi => ?_⟩
    rw [State.buf_setBuf, Memory.read_write, Memory.read_write]
    split
    · rfl
    · exact hread i (by omega)
  · exact rfl

/-- The frame emitted is made of the bytes below its length (R97). -/
theorem SameBelow.handOver {n : Cnt} {a b : State} :
    SameBelow n.toNat a b → SameOutcome (SameBelow n.toNat) (handOver n a) (handOver n b) := by
  rintro ⟨m, rfl, hread⟩
  unfold Machine.handOver
  rw [State.buf_setBuf, ← Memory.slice_congr n.toNat 0 fun i _ hi => hread i (by omega)]
  split
  · exact rfl
  · exact ⟨m, rfl, hread⟩

/-- Bytes below the completed frame's length are all the decoder can read (R45). -/
theorem memRead1_setBuf {n : Cnt} {s : State} {m : Memory} (hn : s.frameLen = some n)
    (hread : ∀ i, i < n.toNat → Memory.read s.buf i = Memory.read m i) (i : Nat) :
    memRead1 i (s.setBuf m) = memRead1 i s := by
  simp only [memRead1, State.frameLen_setBuf, State.buf_setBuf, hn]
  split
  · rw [hread i ‹_›]
  · rfl

theorem toNat_succ_le (n : Cnt) : (n + 1).toNat ≤ n.toNat + 1 := by
  rw [BitVec.toNat_add]
  exact Nat.mod_le _ _

/-- A_HEAD and A_BODY: the byte stored becomes the last live one on both sides (R94, R96). -/
theorem respects_sameLive_storeNext (c : Byte) : Respects SameLive (storeNext c) := by
  intro a b h
  unfold storeNext
  rw [← h.len]
  refine ((sameLive_iff.mp h).memWrite c).andThen fun a1 b1 _ h1 => sameLive_iff.mpr ?_
  obtain ⟨m, rfl, hread⟩ := h1.mono (toNat_succ_le a.len)
  exact ⟨m, rfl, hread⟩

/-- A_LATCH at index 4 makes five bytes live (R95). -/
theorem sameOutcome_execALatch (c : Byte) {a b : State} (h : SameLive a b) (h4 : a.len.toNat = 4) :
    SameOutcome SameLive (execALatch c a) (execALatch c b) := by
  have hbelow : SameBelow 4 a b := h4 ▸ sameLive_iff.mp h
  refine (hbelow.memWrite c).andThen fun a1 b1 _ h1 => sameLive_iff.mpr ?_
  obtain ⟨m, rfl, hread⟩ := h1
  exact ⟨m, rfl, hread⟩

/-- A_COMPLETE: the frame is the same on both sides, so `Decode` reads the same bytes, and no byte is live after it
(R97, R110). -/
theorem respects_sameLive_execAComplete (c : Byte) : Respects SameLive (execAComplete c) := by
  intro a b h
  unfold execAComplete
  rw [← h.len]
  refine ((sameLive_iff.mp h).memWrite c).andThen fun a1 b1 _ h1 => ?_
  refine (h1.mono (toNat_succ_le a.len)).handOver.andThen fun a2 b2 ha2 h2 => ?_
  obtain ⟨frame, -, rfl⟩ := handOver_eq_next.mp ha2
  obtain ⟨m, rfl, hread⟩ := h2
  refine ((bufferReplaced_decoderRelation m).decodeFrame _ _ ⟨rfl, fun i _ => memRead1_setBuf rfl hread i⟩).andThen
    fun u v hu huv => sameLive_iff.mpr ?_
  obtain ⟨-, hlen, -, -⟩ := decodeFrame_assembler hu
  obtain ⟨rfl, -⟩ := huv
  refine ⟨m, rfl, fun i hi => ?_⟩
  rw [State.len_endDecode, hlen] at hi
  exact absurd hi (Nat.not_lt_zero i)

/-- A byte, by the six paths of R91, whose tests read no byte of the buffer. -/
theorem respects_sameLive_execHByte (c : Byte) : Respects SameLive (execHByte c) := by
  intro a b h
  rw [execHByte_eq, execHByte_eq, ← h.st, ← h.len, ← h.tgt]
  cases a.st with
  | awaitingStart =>
    simp only []
    split
    · obtain ⟨m, rfl, hread⟩ := sameLive_iff.mp h
      exact sameLive_iff.mpr ⟨m, rfl, fun i hi => absurd hi (Nat.not_lt_zero i)⟩
    · exact h
  | accumulatingFrame =>
    simp only []
    split_ifs with hhead hlatch
    · exact respects_sameLive_storeNext c a b h
    · exact sameOutcome_execALatch c h (by omega)
    · exact respects_sameLive_execAComplete c a b h
    · exact respects_sameLive_storeNext c a b h

/-- Every HOST operation of an event; a reset removes the bytes on both sides. -/
theorem respects_sameLive_event (e : Event) : Respects SameLive (exec (decodeEvent e)) := by
  intro a b h
  cases e with
  | byte c => exact respects_sameLive_execHByte c a b h
  | reset =>
    obtain ⟨m, rfl, -⟩ := sameLive_iff.mp h
    exact sameLive_iff.mpr ⟨[], rfl, fun _ _ => rfl⟩
  | registerSink =>
    obtain ⟨m, rfl, hread⟩ := sameLive_iff.mp h
    exact sameLive_iff.mpr ⟨m, rfl, hread⟩
  | setLabels name label =>
    obtain ⟨m, rfl, hread⟩ := sameLive_iff.mp h
    exact sameLive_iff.mpr ⟨m, rfl, hread⟩

/-- Settles O50: the next event is the same, and its operation keeps the relation; that the states meet the
invariants is not needed. -/
theorem deadBytesAreUnobservable : Obligations.DeadBytesAreUnobservable := by
  intro a b _ _ h
  cases hin : a.input with
  | nil =>
    rw [step_of_input_nil hin, step_of_input_nil (h.input.symm.trans hin)]
    exact h
  | cons e rest =>
    rw [step_of_input_cons hin, step_of_input_cons (h.input.symm.trans hin)]
    apply respects_sameLive_event
    obtain ⟨m, rfl, hread⟩ := sameLive_iff.mp h
    exact sameLive_iff.mpr ⟨m, rfl, hread⟩

end Sys2Proof.Machine
end

section
/-! Labels are opaque: renaming them all renames them in the outcome (R19, R128). -/

namespace Sys2Proof.Machine

/-- `b` is `a` with its labels renamed by `g`. -/
def Renamed (g : Label → Label) (a b : State) : Prop := b = renameLabels g a

/-- Emitting is the one update under which renaming has work to do: it renames the event. -/
theorem renameLabels_emit (g : Label → Label) (s : State) (e : OutEvent) :
    renameLabels g (s.emit e) = (renameLabels g s).emit (renameOut g e) := by
  simp [renameLabels, State.emit, State.setOutput]

/-- The complete record being built whose numeric fields are `r`. -/
def RegSet.toDraft (r : RegSet) (name label : Option Label) : Draft :=
  ⟨some r.chgMode, some r.pvVolt, some r.batVolt, some r.chgCur, some r.loadVolt, some r.loadCur, some r.chgPower,
    some r.loadPower, some r.extTemp, some r.intTemp, some r.soc, some r.co2Gram, name, label⟩

theorem Draft.regs?_eq_some {d : Draft} {r : RegSet} : d.regs? = some r ↔ ∃ name label, d = r.toDraft name label := by
  constructor
  · intro h
    unfold Draft.regs? at h
    split at h <;> cases h
    exact ⟨_, _, rfl⟩
  · rintro ⟨name, label, rfl⟩
    rfl

/-- The numeric fields do not depend on the labels. -/
theorem Draft.regs?_setLabels (d : Draft) (name label : Option Label) : (d.setLabels name label).regs? = d.regs? := by
  have hset : ∀ (e : Draft) a b r, e.regs? = some r → (e.setLabels a b).regs? = some r := by
    intro e a b r h
    obtain ⟨_, _, rfl⟩ := Draft.regs?_eq_some.mp h
    rfl
  exact Option.ext fun r => ⟨hset (d.setLabels name label) d.devName d.tempLabel r, hset d name label r⟩

/-- A numeric field's write leaves the record's labels. -/
theorem NumericPut.labels {α : Type} {put : Draft → α → Draft} (h : NumericPut put) (d : Draft) (v : α) :
    (put d v).devName = d.devName ∧ (put d v).tempLabel = d.tempLabel := by
  have hsame : put d v = (put d v).setLabels d.devName d.tempLabel := h d v d.devName d.tempLabel
  exact ⟨(congrArg Draft.devName hsame).trans rfl, (congrArg Draft.tempLabel hsame).trans rfl⟩

/-- The decoder's part: it moves labels and never looks into one (R128, R130). -/
theorem renamed_decoderRelation (g : Label → Label) : DecoderRelation (Renamed g) where
  frameLen := by rintro a b rfl; rfl
  read := by rintro a b rfl i -; rfl
  sinkEn := by rintro a b rfl; rfl
  put := by
    rintro a b α v put hput rfl
    obtain ⟨hname, hlabel⟩ := hput.labels a.draft v
    have hdraft : put (renameLabels g a).draft v = (put a.draft v).setLabels ((put a.draft v).devName.map g)
        ((put a.draft v).tempLabel.map g) := by
      rw [hname, hlabel]
      exact hput a.draft v _ _
    rw [hdraft]
    exact rfl
  labels := by rintro a b rfl; rfl
  notify := by
    rintro a b rfl
    have hregs : (renameLabels g a).draft.regs? = a.draft.regs? := a.draft.regs?_setLabels _ _
    have hname : (renameLabels g a).draft.devName = a.draft.devName.map g := rfl
    have hlabel : (renameLabels g a).draft.tempLabel = a.draft.tempLabel.map g := rfl
    unfold execDNotify
    rw [hregs, hname, hlabel]
    cases a.draft.regs? with
    | none => exact rfl
    | some r =>
      cases a.draft.devName with
      | none => exact rfl
      | some name =>
        cases a.draft.tempLabel with
        | none => exact rfl
        | some label => exact (renameLabels_emit g (a.setRegs (some r)) (.notify ⟨r, name, label⟩)).symm
  short := by
    rintro a b n rfl
    exact (renameLabels_emit g (a.setFaultShort true) (.fault .shortTelemetryFrame n)).symm

theorem respects_renamed_memWrite (g : Label → Label) (i : Nat) (c : Byte) : Respects (Renamed g) (memWrite i c) := by
  rintro a _ rfl
  unfold memWrite
  split <;> exact rfl

theorem respects_renamed_storeNext (g : Label → Label) (c : Byte) : Respects (Renamed g) (storeNext c) := by
  rintro a _ rfl
  refine (respects_renamed_memWrite g a.len.toNat c a _ rfl).andThen ?_
  rintro b _ - rfl
  exact rfl

theorem respects_renamed_execALatch (g : Label → Label) (c : Byte) : Respects (Renamed g) (execALatch c) := by
  rintro a _ rfl
  refine (respects_renamed_memWrite g lenIndex c a _ rfl).andThen ?_
  rintro b _ - rfl
  exact rfl

theorem respects_renamed_handOver (g : Label → Label) (n : Cnt) : Respects (Renamed g) (handOver n) := by
  rintro a _ rfl
  have hbuf : (renameLabels g a).buf = a.buf := rfl
  unfold handOver
  rw [hbuf]
  cases Memory.slice a.buf 0 n.toNat with
  | none => exact rfl
  | some frame =>
    exact congrArg (fun s => s.toIdle.setFrameLen (some n)) (renameLabels_emit g a (.frame frame)).symm

theorem respects_renamed_execAComplete (g : Label → Label) (c : Byte) : Respects (Renamed g) (execAComplete c) := by
  rintro a _ rfl
  refine (respects_renamed_memWrite g a.len.toNat c a _ rfl).andThen fun a1 b1 _ h1 => ?_
  refine (respects_renamed_handOver g (a.len + 1) a1 b1 h1).andThen fun a2 b2 _ h2 => ?_
  refine ((renamed_decoderRelation g).decodeFrame a2 b2 h2).andThen ?_
  rintro u _ - rfl
  exact rfl

/-- A byte selects the same operation whatever the labels (R67). -/
theorem respects_renamed_execHByte (g : Label → Label) (c : Byte) : Respects (Renamed g) (execHByte c) := by
  rintro a _ rfl
  have hsel : byteSel (renameLabels g a) c = byteSel a c := rfl
  unfold execHByte
  rw [hsel]
  cases selectByte (byteSel a c)
  case start => exact rfl
  case discard => exact rfl
  case head => exact respects_renamed_storeNext g c a _ rfl
  case latch => exact respects_renamed_execALatch g c a _ rfl
  case body => exact respects_renamed_storeNext g c a _ rfl
  case complete => exact respects_renamed_execAComplete g c a _ rfl

/-- A HOST operation whose event is renamed with the state; SetLabels brings the renamed labels. -/
theorem sameOutcome_renamed_event (g : Label → Label) (e : Event) (s : State) :
    SameOutcome (Renamed g) (exec (decodeEvent e) s) (exec (decodeEvent (renameEvent g e)) (renameLabels g s)) := by
  cases e with
  | byte c => exact respects_renamed_execHByte g c s _ rfl
  | reset => exact rfl
  | registerSink => exact rfl
  | setLabels name label => exact rfl

/-- Settles O51: the next event is the renamed one, and its operation keeps the relation. -/
theorem labelsAreOpaque : Obligations.LabelsAreOpaque := by
  intro g s
  have hinput : (renameLabels g s).input = s.input.map (renameEvent g) := rfl
  cases hin : s.input with
  | nil =>
    rw [hin] at hinput
    rw [step_of_input_nil hin, step_of_input_nil hinput]
    exact rfl
  | cons e rest =>
    rw [hin] at hinput
    rw [step_of_input_cons hin, step_of_input_cons hinput]
    exact sameOutcome_renamed_event g e (s.setInput rest)

end Sys2Proof.Machine
end

section
/-! The frame buffer: reads of the completed frame (R42 to R47), and where a byte is stored (R40). -/

namespace Sys2Proof.Machine

/-- From the frame's length on there is no value to read (R45). -/
theorem memRead1_of_frameLen_le {s : State} {n : Cnt} {i : Nat} (hn : s.frameLen = some n) (hi : n.toNat ≤ i) :
    memRead1 i s = .error .frameIndex := by
  simp only [memRead1, hn, if_neg (Nat.not_lt.mpr hi)]

/-- Settles O28: what the reads answer where they answer, and the index test where they do not. -/
theorem frameReads : Obligations.FrameReads := by
  refine ⟨fun s i b hone => memRead1_eq_ok.mpr hone, ?_, fun s n i => memRead1_of_frameLen_le⟩
  rintro s i lo hi ⟨n, hn, hlt, hlo, hhi⟩
  exact ⟨u16le lo hi, memRead2_eq_ok.mpr ⟨n, lo, hi, hn, hlt, hlo, hhi, rfl⟩, toNat_u16le lo hi⟩

/-- A one-byte read looks at the buffer at its own index only (R43). -/
theorem memRead1_setBuf_of_read_eq {s : State} {m : Memory} {i : Nat} (h : Memory.read s.buf i = Memory.read m i) :
    memRead1 i (s.setBuf m) = memRead1 i s := by
  simp only [memRead1, State.frameLen_setBuf, State.buf_setBuf, h]

/-- Outcomes related by a relation are related by every weaker one. -/
theorem SameOutcome.imp {R S : State → State → Prop} (hRS : ∀ a b, R a b → S a b) {o p : Result}
    (h : SameOutcome R o p) : SameOutcome S o p := by
  have := h.andThen (f := .next) (g := .next) fun a b _ => hRS a b
  rwa [andThen_next_right, andThen_next_right] at this

/-- Settles O29: the decoder respects the exchange of the buffer for one that agrees at the indices read. -/
theorem unreadBytesDoNotMatter : Obligations.UnreadBytesDoNotMatter := by
  intro s m hagree
  have hrel : BufferReplaced m s (s.setBuf m) := ⟨rfl, fun i hi => memRead1_setBuf_of_read_eq (hagree i hi)⟩
  exact ((bufferReplaced_decoderRelation m).decodeFrame _ _ hrel).imp fun _ _ hab => hab.1

theorem storeNext_buf {c : Byte} {s t : State} (h : storeNext c s = .next t) :
    t.buf = Memory.write s.buf s.len.toNat c := by
  obtain ⟨-, rfl⟩ := storeNext_eq_next.mp h
  rfl

/-- A_LATCH stores at index 4 (R95). -/
theorem execALatch_buf {c : Byte} {s t : State} (h : execALatch c s = .next t) : t.buf = Memory.write s.buf 4 c := by
  cases h
  rfl

/-- A_COMPLETE stores its byte, and `Decode` leaves the buffer alone (R97, R110). -/
theorem execAComplete_buf {c : Byte} {s t : State} (h : execAComplete c s = .next t) :
    t.buf = Memory.write s.buf s.len.toNat c := by
  obtain ⟨-, frame, u, -, hu, rfl⟩ := execAComplete_eq_next.mp h
  obtain ⟨-, -, -, hbuf⟩ := decodeFrame_assembler hu
  exact hbuf

/-- While idle a byte stores nothing (R92, R93). -/
theorem execHByte_buf_of_awaitingStart {c : Byte} {s t : State} (hst : s.st = .awaitingStart)
    (h : execHByte c s = .next t) : t.buf = s.buf := by
  rw [execHByte_eq, hst] at h
  dsimp only at h
  split at h <;> cases h <;> rfl

/-- Inside a frame every byte is stored, at index `len` (R40, R94 to R97). -/
theorem execHByte_buf_of_accumulatingFrame {c : Byte} {s t : State} (hst : s.st = .accumulatingFrame)
    (h : execHByte c s = .next t) : t.buf = Memory.write s.buf s.len.toNat c := by
  rw [execHByte_eq, hst] at h
  dsimp only at h
  split_ifs at h with hhead hlatch
  · exact storeNext_buf h
  · have h4 : s.len.toNat = 4 := by omega
    rw [h4]
    exact execALatch_buf h
  · exact execAComplete_buf h
  · exact storeNext_buf h

/-- Settles O37: by the assembler's state; the store inside a frame leaves every index but `len` as it reads. -/
theorem bytesAreStoredOnlyAtLen : Obligations.BytesAreStoredOnlyAtLen := by
  intro s c t i h hi
  have hbyte : execHByte c s = .next t := h
  cases hst : s.st with
  | awaitingStart => rw [execHByte_buf_of_awaitingStart hst hbyte]
  | accumulatingFrame =>
    have hne : i ≠ s.len.toNat := hi.resolve_left (by rw [hst]; decide)
    rw [execHByte_buf_of_accumulatingFrame hst hbyte, Memory.read_write_other _ _ _ _ hne]

end Sys2Proof.Machine
end

section
/-! The selection of the assembler operations under the invariants (R67, R75, R90). -/

namespace Sys2Proof.Machine

/-- Inside a frame the target is there from the fifth byte on, and not yet reached (R15, I3 and I4). -/
theorem StateInv.tgt_cases {s : State} (h : StateInv s) (hst : s.st = .accumulatingFrame) :
    (s.len.toNat < 5 ∧ s.tgt = none) ∨ 5 ≤ s.len.toNat ∧ ∃ v, s.tgt = some v ∧ s.len.toNat + 1 ≤ v.toNat := by
  have hi3 := h.assembler.i3 hst
  cases htgt : s.tgt with
  | none =>
    refine .inl ⟨Nat.lt_of_not_le fun hlen => ?_, rfl⟩
    simpa [htgt] using hi3.mpr hlen
  | some v =>
    obtain ⟨b, -, -, -, -, hlt⟩ := h.assembler.i4 v htgt
    exact .inr ⟨hi3.mp (by rw [htgt]; rfl), v, rfl, hlt⟩

/-- Settles O15: by `st`, then by the tests of R67 in order; under the invariants a target is there exactly when
the last two tests need one. -/
theorem selectorsAreTheConditions : Obligations.SelectorsAreTheConditions := by
  intro s c h
  rw [selectByte_byteSel]
  cases hst : s.st with
  | awaitingStart =>
    dsimp only
    by_cases hc : c = 0xAA
    · simp [hc]
    · rw [if_neg hc]
      simpa using hc
  | accumulatingFrame =>
    obtain ⟨hlen, htgt⟩ | ⟨hlen, v, htgt, hv⟩ := h.tgt_cases hst
    · by_cases hhead : s.len.toNat + 1 < 5
      · simp [htgt, hhead, hhead.ne]
      · have hlatch : s.len.toNat + 1 = 5 := by omega
        simp [htgt, hlatch]
    · have hhead : ¬ s.len.toNat + 1 < 5 := by omega
      have hlatch : s.len.toNat + 1 ≠ 5 := by omega
      have hbody : 6 ≤ s.len.toNat + 1 := by omega
      obtain hlast | hinside := hv.eq_or_lt
      · simp [htgt, hlast, hlast ▸ hhead, hlast ▸ hlatch]
      · simp [htgt, hhead, hlatch, hbody, hinside, hinside.ne, hinside.ne']

end Sys2Proof.Machine
end

section
/-! Decoding the words of the operations: one lemma per format, then every operation (R67, R68, R75, R76). -/

namespace Sys2Proof

/-- A BYTE word carries the byte of the operation it selects (R67). -/
theorem decode_packSel {st : BitVec 1} {pos : BitVec 2} {c : Byte} {op : ByteOp}
    (h : selectByte (packSel st pos c) = op) : decode (.byte (packSel st pos c)) = .instr (byteInstr op c) := by
  simp only [decode, h, Machine.extractLsb'_packSel]

/-- A FRAME word with other discriminators than telemetry's is D_DROP's, and carries all its operands (R68, R112). -/
theorem decode_packFsel_of_not_telem {short : Bool} {src typ : Byte} (h : ¬ (src = 3 ∧ typ = 0)) :
    decode (.frame (packFsel short src typ)) = .instr (.dDrop short src typ) := by
  simp only [decode, Machine.selectFrame_packFsel, if_neg h, frameInstr, Machine.getLsbD_packFsel,
    Machine.extractLsb'_packFsel_src, Machine.extractLsb'_packFsel_typ]

/-- A FRAME word with telemetry's discriminators is told apart by the short mark (R113, R114). -/
theorem decode_packFsel_telem (short : Bool) :
    decode (.frame (packFsel short 3 0)) = .instr (if short then .dShort else .dTelem) := by
  cases short <;> simp [decode, Machine.selectFrame_packFsel, frameInstr]

/-- A DELIVER word is the bit `sink_en` (R130, R131). -/
theorem decode_deliver (en : Bool) :
    decode (.deliver (BitVec.ofBool en)) = .instr (if en then .dNotify else .dDiscard) := by
  simp only [decode, Machine.selectDeliver_ofBool]
  cases en <;> rfl

/-- No two fields start at the same frame index (R65). -/
theorem fieldAt_fieldIndex (f : Field) : fieldAt (Machine.fieldIndex f) = some f := by
  cases f <;> rfl

theorem decode_fieldCode (f : Field) : decode (fieldCode f) = .instr (fieldInstr f) := by
  simp only [decode, fieldCode, if_true, fieldAt_fieldIndex]

theorem wellFormed_aDiscard {c : Byte} : (Instr.aDiscard c).wellFormed = true ↔ c ≠ 0xAA := bne_iff_ne

theorem wellFormed_dDrop {short : Bool} {src typ : Byte} :
    (Instr.dDrop short src typ).wellFormed = true ↔ ¬ (src = 3 ∧ typ = 0) := by
  simp [Instr.wellFormed, Machine.srcTelem, Machine.typTelem, imp_iff_not_or]

/-- The words of an operation with a single word, once that word is known to decode to it. -/
theorem map_decode_singleton {w : Code} {i : Instr} (h : decode w = .instr i) :
    [w].map decode = [i].map Decoded.instr := congrArg (fun d => [d]) h

/-- Settles O52: by the operation; every one but the macro H_FEED has one word, which carries its operands. -/
theorem decodeOfEncode : Obligations.DecodeOfEncode := by
  intro i hwf
  cases i with
  | aStart => exact map_decode_singleton (decode_packSel (Machine.selectByte_idle 0 0xAA))
  | aDiscard c =>
    have hsel : selectByte (packSel 0 0 c) = .discard := by
      rw [Machine.selectByte_idle, if_neg (wellFormed_aDiscard.mp hwf)]
    exact map_decode_singleton (decode_packSel hsel)
  | aHead c => exact map_decode_singleton (decode_packSel (Machine.selectByte_head c))
  | aLatch c => exact map_decode_singleton (decode_packSel (Machine.selectByte_latch c))
  | aBody c => exact map_decode_singleton (decode_packSel (Machine.selectByte_body c))
  | aComplete c => exact map_decode_singleton (decode_packSel (Machine.selectByte_complete c))
  | dTelem => exact map_decode_singleton (decode_packFsel_telem false)
  | dShort => exact map_decode_singleton (decode_packFsel_telem true)
  | dDrop short src typ => exact map_decode_singleton (decode_packFsel_of_not_telem (wellFormed_dDrop.mp hwf))
  | xChgMode | xPvVolt | xBatVolt | xChgCur | xLoadVolt | xLoadCur | xChgPower | xLoadPower | xExtTemp | xIntTemp
  | xSoc | xCo2Gram => exact map_decode_singleton (decode_fieldCode _)
  | xLabels => exact map_decode_singleton rfl
  | dNotify => exact map_decode_singleton (decode_deliver true)
  | dDiscard => exact map_decode_singleton (decode_deliver false)
  | hReset | hRegisterSink | hSetLabels | hByte => exact map_decode_singleton rfl
  | hFeed chunk =>
    have hword : ∀ c, decode (.host (.byte c)) = .instr (.hByte c) := fun _ => rfl
    simp [encode, Instr.expand, hword]

/-- Settles O53: all ten words are fixed, and `decode` evaluates. -/
theorem wordsOfTheMapDecode : Obligations.WordsOfTheMapDecode := by
  unfold Obligations.WordsOfTheMapDecode
  decide

end Sys2Proof
end

section
/-! The assembler operations that complete no frame, each with the states in which a byte is that operation (R92 to
R96). These need no invariant. -/

namespace Sys2Proof.Machine

/-- `len` does not wrap: the buffer has 261 indices (R12, R14). -/
theorem toNat_succ {n : Cnt} (h : n.toNat ≤ 260) : (n + 1).toNat = n.toNat + 1 := by bv_omega

/-- While idle a byte is A_START or A_DISCARD (R92, R93). -/
theorem execHByte_of_awaitingStart {s : State} (hst : s.st = .awaitingStart) (c : Byte) :
    execHByte c s = if c = 0xAA then execAStart s else .next s := by
  rw [execHByte_eq, hst]
  rfl

/-- Settles O8: discarding returns the state, and a byte other than the sentinel is discarded while idle. -/
theorem discardOperation : Obligations.DiscardOperation :=
  ⟨fun _ _ => rfl, fun _ c hst hc => (execHByte_of_awaitingStart hst c).trans (if_neg hc)⟩

/-- Settles O9: the three writes of R93, and the sentinel's selection while idle. -/
theorem startOperation : Obligations.StartOperation :=
  ⟨fun _ => rfl, fun _ hst => execHByte_of_awaitingStart hst 0xAA⟩

/-- A_HEAD and A_BODY where the index exists: the byte is stored at `len`, which goes up by one (R94, R96). -/
theorem storeNext_stores {s : State} (hlen : s.len.toNat < 261) (c : Byte) :
    ∃ t, storeNext c s = .next t ∧ t = { s with buf := t.buf, len := t.len } ∧ t.len.toNat = s.len.toNat + 1 ∧
      ∀ i, Memory.read t.buf i = if i = s.len.toNat then some c else Memory.read s.buf i := by
  exact ⟨_, storeNext_eq_next.mpr ⟨hlen, rfl⟩, rfl, toNat_succ (Nat.le_of_lt_succ hlen),
    fun i => Memory.read_write _ _ i c⟩

/-- Settles O10: the first test of R67 inside a frame, then the store. -/
theorem headOperation : Obligations.HeadOperation := by
  intro s c hst hlen
  refine ⟨?_, storeNext_stores (by omega) c⟩
  show execHByte c s = execAHead c s
  rw [execHByte_eq, hst]
  exact if_pos hlen

/-- Settles O11: the second test of R67 inside a frame; the target is `6 + c`, with room for the sum (R64). -/
theorem latchOperation : Obligations.LatchOperation := by
  intro s c hst hlen
  refine ⟨?_, _, targetLen c, rfl, rfl, toNat_targetLen c, rfl, fun i => Memory.read_write _ 4 i c⟩
  show execHByte c s = execALatch c s
  rw [execHByte_eq, hst]
  dsimp only
  rw [if_neg (by omega), if_pos hlen]

/-- Settles O12: all three tests of R67 inside a frame fail, then the store. -/
theorem bodyOperation : Obligations.BodyOperation := by
  intro s c v hst h6 hv hlt hle
  refine ⟨?_, storeNext_stores (by omega) c⟩
  have hlast : s.tgt.map BitVec.toNat ≠ some (s.len.toNat + 1) := by
    rw [hv, Option.map_some, ne_eq, Option.some.injEq]
    omega
  show execHByte c s = execABody c s
  rw [execHByte_eq, hst]
  dsimp only
  rw [if_neg (by omega), if_neg (by omega), if_neg hlast]

end Sys2Proof.Machine
end

section
/-! The completing byte: `Decode` of the frame just stored is the fate of the list of its bytes (R97, R110). -/

namespace Sys2Proof.Machine

/-- A store right after `k` live bytes makes them `k + 1`. -/
theorem Memory.slice_write_end {m : Memory} {k : Nat} {data : List Byte} (c : Byte)
    (h : Memory.slice m 0 k = some data) : Memory.slice (Memory.write m k c) 0 (k + 1) = some (data ++ [c]) := by
  have hbefore : Memory.slice (Memory.write m k c) 0 k = some data :=
    (Memory.slice_congr k 0 fun j _ hj => Memory.read_write_other m k j c (by omega)).trans h
  exact Memory.slice_succ k hbefore (by rw [Nat.zero_add, Memory.read_write_same])

/-- The byte of a frame in the buffer, as the decoder reads it (R43). -/
theorem memRead1_of_slice {s : State} {n : Cnt} {frame : List Byte} (hn : s.frameLen = some n)
    (hs : Memory.slice s.buf 0 n.toNat = some frame) {i : Nat} (hi : i < n.toNat) :
    memRead1 i s = .ok (byteAt frame i) :=
  memRead1_eq_ok.mpr ⟨n, hn, hi, by simpa [byteAt] using (Memory.slice_some hs).2 i hi⟩

/-- What a frame's fate leaves of the state: the mark, the record registers and the events (R110). -/
def State.withFate (fate : FrameFate) (s : State) : State :=
  { s with
    faultShort := fateFault s.faultShort fate
    regs := fateRegs s.regs fate
    output := s.output ++ fateEvents fate }

/-- A fate as an outcome: only a delivery without labels is refused (R196 b). -/
def fateResult (fate : FrameFate) (s : State) : Result :=
  if fate = .refused then .refused .labelsNotSet else .next (s.withFate fate)

@[simp] theorem State.withFate_dropped (s : State) : s.withFate .dropped = s := by
  simp [State.withFate, fateFault, fateRegs, fateEvents]

@[simp] theorem State.withFate_discarded (s : State) : s.withFate .discarded = s := by
  simp [State.withFate, fateFault, fateRegs, fateEvents]

/-- A frame of the telemetry kind, by its discriminators (R111). -/
abbrev IsTelemetry (frame : List Byte) : Prop := byteAt frame 2 = 3 ∧ byteAt frame 3 = 0

theorem frameFate_of_not_telemetry {frame : List Byte} (h : ¬ IsTelemetry frame) (sink : Bool)
    (labels : Option (Label × Label)) : frameFate sink labels frame = .dropped :=
  if_pos (Decidable.not_and_iff_not_or_not.mp h)

theorem frameFate_of_short {frame : List Byte} (h : IsTelemetry frame) (hlt : frame.length < 35) (sink : Bool)
    (labels : Option (Label × Label)) : frameFate sink labels frame = .short (BitVec.ofNat 9 frame.length) := by
  obtain ⟨hsrc, htyp⟩ := h
  simp [frameFate, hsrc, htyp, hlt]

/-- Delivery of the record of a telemetry frame, and the end of its decode (R130, R131, R196 b). -/
theorem deliver_endDecode {s : State} {frame : List Byte} {d : Draft} (h : IsTelemetry frame)
    (h35 : ¬ frame.length < 35) (hr : d.regs? = some (recordOf frame)) (hname : d.devName = s.devName)
    (hlabel : d.tempLabel = s.tempLabel) :
    (andThen (deliver (s.setDraft d)) fun t => .next t.endDecode) =
      fateResult (frameFate s.sinkEn s.labels? frame) s.endDecode := by
  obtain ⟨hsrc, htyp⟩ := h
  rw [deliver_eq]
  cases hsink : s.sinkEn
  · have hfate : frameFate false s.labels? frame = .discarded := by simp [frameFate, hsrc, htyp, h35]
    rw [State.sinkEn_setDraft, hsink, hfate, fateResult, State.withFate_discarded]
    rfl
  · simp only [State.sinkEn_setDraft, hsink, if_true, execDNotify, State.draft_setDraft, hr, hname, hlabel,
      State.labels?, frameFate, hsrc, htyp, h35]
    cases s.devName <;> cases s.tempLabel <;> rfl

/-- `Decode` of a frame in the buffer is the fate of the list of its bytes (R110, R171 c). -/
theorem decodeFrame_eq_fateResult {s : State} {n : Cnt} {frame : List Byte} (hn : s.frameLen = some n)
    (h4 : 4 ≤ n.toNat) (hs : Memory.slice s.buf 0 n.toNat = some frame) :
    (andThen (decodeFrame s) fun t => .next t.endDecode) =
      fateResult (frameFate s.sinkEn s.labels? frame) s.endDecode := by
  have hlen : frame.length = n.toNat := (Memory.slice_some hs).1
  rw [decodeFrame_eq hn (memRead1_of_slice hn hs (by omega)) (memRead1_of_slice hn hs (by omega))]
  by_cases htelem : IsTelemetry frame
  · rw [if_pos htelem]
    by_cases hshort : n.toNat < 35
    · rw [if_pos hshort, frameFate_of_short htelem (by omega), hlen, BitVec.ofNat_toNat, BitVec.setWidth_eq]
      simp only [execDShort, hn]
      rfl
    · obtain ⟨d, hr, hname, hlabel, hd⟩ := inOrder_extractions hn (by omega) hs
      rw [if_neg hshort, execDTelem, hd, andThen_next, deliver_endDecode htelem (by omega) hr hname hlabel]
  · rw [if_neg htelem, frameFate_of_not_telemetry htelem, fateResult, State.withFate_dropped]
    rfl

/-- The state in which the frame completed by `c` is handed to the decoder: the byte stored, the frame emitted and
the assembler idle (R97). -/
def State.handedOver (frame : List Byte) (c : Byte) (s : State) : State :=
  ((s.setBuf (Memory.write s.buf s.len.toNat c)).emit (.frame frame)).toIdle

/-- The completing step: the frame handed over, then its fate. -/
theorem completeStep_eq_fateResult (s : State) (data : List Byte) (c : Byte) :
    completeStep s data c =
      fateResult (frameFate s.sinkEn s.labels? (data ++ [c])) (s.handedOver (data ++ [c]) c) := by
  have hevents : ∀ fate, (s.output ++ [.frame (data ++ [c])]) ++ fateEvents fate =
      s.output ++ .frame (data ++ [c]) :: fateEvents fate := fun fate => by simp
  simp only [completeStep, fateResult, ← hevents]
  rfl

/-- Between steps the decoder's own elements are as `Decode` leaves them (log entry 3). -/
theorem State.endDecode_setFrameLen {s : State} (h : s.frameLen = none ∧ s.draft = {}) (n : Option Cnt) :
    (s.setFrameLen n).endDecode = s := by
  obtain ⟨hframe, hdraft⟩ := h
  cases s
  simp only at hframe hdraft
  subst hframe hdraft
  rfl

/-- A_COMPLETE is the completing step on the list of the bytes so far (R97, R110). -/
theorem execAComplete_eq_completeStep {s : State} {data : List Byte} (c : Byte)
    (hidle : s.frameLen = none ∧ s.draft = {}) (h3 : 3 ≤ s.len.toNat) (h260 : s.len.toNat ≤ 260)
    (hd : s.data = some data) : execAComplete c s = completeStep s data c := by
  have hlen := toNat_succ h260
  have hslice : Memory.slice (Memory.write s.buf s.len.toNat c) 0 (s.len + 1).toNat = some (data ++ [c]) := by
    rw [hlen]
    exact Memory.slice_write_end c hd
  have hwrite : memWrite s.len.toNat c s = .next (s.setBuf (Memory.write s.buf s.len.toNat c)) :=
    memWrite_eq_next.mpr ⟨by omega, rfl⟩
  rw [execAComplete, hwrite, andThen_next, handOver_eq_next.mpr ⟨_, hslice, rfl⟩, andThen_next,
    decodeFrame_eq_fateResult rfl (by omega) hslice, completeStep_eq_fateResult]
  exact congrArg (fateResult _) (State.endDecode_setFrameLen (s := s.handedOver _ c) hidle _)

end Sys2Proof.Machine
end

section
/-! The `Byte` step by its paths (R90 to R97), and what it says of frames: where they end and how long they are. -/

namespace Sys2Proof.Machine

/-- The byte to come is the last of the frame in progress (R97). -/
def AtTarget (s : State) : Prop := ∃ v, s.tgt = some v ∧ s.len.toNat + 1 = v.toNat

/-- The byte to come is not the last of the frame in progress: the target is not known yet, or further off. -/
def BeforeTarget (s : State) : Prop := ∀ v, s.tgt = some v → s.len.toNat + 1 < v.toNat

/-- The state after a byte inside a frame (R94 to R96): it is stored, and the fifth one fixes the target. -/
def State.stored (c : Byte) (s : State) : State :=
  { s with
    buf := Memory.write s.buf s.len.toNat c
    len := s.len + 1
    tgt := if s.len.toNat + 1 = 5 then some (targetLen c) else s.tgt }

/-- Under the invariants the last byte comes neither early nor late (R15, I4). -/
theorem StateInv.beforeTarget_or_atTarget {s : State} (h : StateInv s) : BeforeTarget s ∨ AtTarget s := by
  cases htgt : s.tgt with
  | none => exact .inl fun v hv => by simp [htgt] at hv
  | some v =>
    obtain ⟨b, -, -, -, -, hlt⟩ := h.assembler.i4 v htgt
    obtain hlast | hinside := Nat.eq_or_lt_of_le (Nat.succ_le_of_lt hlt)
    · exact .inr ⟨v, htgt, hlast⟩
    · refine .inl fun w hw => ?_
      cases htgt.symm.trans hw
      exact hinside

/-- Under the invariants a frame about to complete has five bytes at least (R15, I3). -/
theorem StateInv.five_le_len {s : State} (h : StateInv s) (hst : s.st = .accumulatingFrame) (hat : AtTarget s) :
    5 ≤ s.len.toNat := by
  obtain ⟨v, hv, -⟩ := hat
  exact (h.assembler.i3 hst).mp (by rw [hv]; rfl)

theorem BeforeTarget.map_ne {s : State} (h : BeforeTarget s) : s.tgt.map BitVec.toNat ≠ some (s.len.toNat + 1) := by
  intro hmap
  obtain ⟨v, hv, hv'⟩ := Option.map_eq_some_iff.mp hmap
  exact absurd (h v hv) (by omega)

theorem AtTarget.map_eq {s : State} (h : AtTarget s) : s.tgt.map BitVec.toNat = some (s.len.toNat + 1) := by
  obtain ⟨v, hv, hlast⟩ := h
  rw [hv, hlast]
  rfl

/-- Before its target a frame goes on, whatever the byte (R94 to R96, R102). -/
theorem StateInv.execHByte_of_beforeTarget {s : State} (h : StateInv s) (hst : s.st = .accumulatingFrame)
    (hbefore : BeforeTarget s) (c : Byte) : execHByte c s = .next (s.stored c) := by
  have hle := h.assembler.i2 hst
  have hstore : s.len.toNat + 1 ≠ 5 → Machine.storeNext c s = .next (s.stored c) := by
    intro h5
    refine storeNext_eq_next.mpr ⟨by omega, ?_⟩
    simp only [State.stored, if_neg h5]
    rfl
  rw [execHByte_eq, hst]
  dsimp only
  by_cases h5 : s.len.toNat + 1 = 5
  · have hlen : s.len = 4 := BitVec.eq_of_toNat_eq (by simpa using h5)
    rw [if_neg (by omega), if_pos h5]
    simp only [State.stored, hlen]
    rfl
  · rw [if_neg h5, if_neg hbefore.map_ne, execAHead, execABody, hstore h5, ite_self]

/-- At its target a frame completes, whatever the byte (R97, R102). -/
theorem StateInv.execHByte_of_atTarget {s : State} {data : List Byte} (h : StateInv s)
    (hst : s.st = .accumulatingFrame) (hat : AtTarget s) (hd : s.data = some data) (c : Byte) :
    execHByte c s = execAComplete c s ∧ execAComplete c s = completeStep s data c := by
  have h5 := h.five_le_len hst hat
  constructor
  · rw [execHByte_eq, hst]
    dsimp only
    rw [if_neg (by omega), if_neg (by omega), if_pos hat.map_eq]
  · exact execAComplete_eq_completeStep c h.idleDecoder (by omega) (h.assembler.i2 hst) hd

/-- The paths of a byte from a state that meets the invariants: idle, inside a frame, and at its end. -/
theorem StateInv.byte_cases {s : State} {data : List Byte} (h : StateInv s) (hd : s.data = some data) (c : Byte) :
    (s.st = .awaitingStart ∧ execHByte c s = if c = 0xAA then execAStart s else .next s) ∨
    (s.st = .accumulatingFrame ∧ BeforeTarget s ∧ execHByte c s = .next (s.stored c)) ∨
    (s.st = .accumulatingFrame ∧ AtTarget s ∧ execHByte c s = completeStep s data c) := by
  cases hst : s.st with
  | awaitingStart => exact .inl ⟨rfl, execHByte_of_awaitingStart hst c⟩
  | accumulatingFrame =>
    obtain hbefore | hat := h.beforeTarget_or_atTarget
    · exact .inr (.inl ⟨rfl, hbefore, h.execHByte_of_beforeTarget hst hbefore c⟩)
    · obtain ⟨hop, hstep⟩ := h.execHByte_of_atTarget hst hat hd c
      exact .inr (.inr ⟨rfl, hat, hop.trans hstep⟩)

/-- Settles O14: path by path; R91 updates the target before it tests it, which matters at the fifth byte alone,
where the new target is not yet reached. -/
theorem byteStepIsTheAlgorithm : Obligations.ByteStepIsTheAlgorithm := by
  intro s c data h hd
  unfold byteStep
  obtain ⟨hst, hbyte⟩ | ⟨hst, hbefore, hbyte⟩ | ⟨hst, hat, hbyte⟩ := h.byte_cases hd c
  · rw [hst]
    exact hbyte
  · have hlen : s.len + 1 = BitVec.ofNat 9 (s.len.toNat + 1) := by
      rw [BitVec.ofNat_add, BitVec.ofNat_toNat, BitVec.setWidth_eq]
      rfl
    rw [show exec (.hByte c) s = _ from hbyte]
    simp only [hst, State.stored, hlen]
    by_cases h5 : s.len.toNat + 1 = 5
    · have htgt : targetLen c = BitVec.ofNat 9 (6 + c.toNat) := by
        rw [← toNat_targetLen, BitVec.ofNat_toNat, BitVec.setWidth_eq]
      have hne : some (6 + c.toNat) ≠ some 5 := by simp; omega
      simp only [h5, if_true, if_neg hne, htgt, Option.map_some]
    · have htgt : (s.tgt.map BitVec.toNat).map (BitVec.ofNat 9) = s.tgt := by
        cases s.tgt <;> simp
      simp only [h5, if_false, if_neg hbefore.map_ne, htgt]
  · have h5 := h.five_le_len hst hat
    rw [show exec (.hByte c) s = _ from hbyte, hst]
    dsimp only
    rw [if_neg (show s.len.toNat + 1 ≠ 5 by omega), if_pos hat.map_eq]

/-- A refused fate is a delivery that lacks a label (R196 b). -/
theorem not_deliveryReady_of_refused {s : State} {frame : List Byte}
    (h : frameFate s.sinkEn s.labels? frame = .refused) : ¬ DeliveryReady s := by
  intro hready
  unfold frameFate at h
  split_ifs at h with htelem hshort hsink
  obtain ⟨hname, hlabel⟩ := hready (by simpa using hsink)
  obtain ⟨name, hname⟩ := Option.isSome_iff_exists.mp hname
  obtain ⟨label, hlabel⟩ := Option.isSome_iff_exists.mp hlabel
  simp [State.labels?, hname, hlabel] at h

theorem fateResult_eq_next {fate : FrameFate} {s t : State} :
    fateResult fate s = .next t ↔ fate ≠ .refused ∧ t = s.withFate fate := by
  unfold fateResult
  split <;> simp_all [eq_comm]

/-- The state after a frame completed by `c` (R97, R110). -/
def State.completed (frame : List Byte) (c : Byte) (s : State) : State :=
  (s.handedOver frame c).withFate (frameFate s.sinkEn s.labels? frame)

theorem completeStep_eq_next {s t : State} {data : List Byte} {c : Byte} :
    completeStep s data c = .next t ↔
      frameFate s.sinkEn s.labels? (data ++ [c]) ≠ .refused ∧ t = s.completed (data ++ [c]) c := by
  rw [completeStep_eq_fateResult, fateResult_eq_next]
  rfl

theorem completeStep_of_deliveryReady {s : State} (h : DeliveryReady s) (data : List Byte) (c : Byte) :
    completeStep s data c = .next (s.completed (data ++ [c]) c) :=
  completeStep_eq_next.mpr ⟨fun hrefused => not_deliveryReady_of_refused hrefused h, rfl⟩

theorem completeStep_of_refused {s : State} {data : List Byte} {c : Byte}
    (h : frameFate s.sinkEn s.labels? (data ++ [c]) = .refused) : completeStep s data c = .refused .labelsNotSet := by
  rw [completeStep_eq_fateResult, fateResult, if_pos h]

theorem State.output_completed (frame : List Byte) (c : Byte) (s : State) :
    (s.completed frame c).output = s.output ++ .frame frame :: fateEvents (frameFate s.sinkEn s.labels? frame) :=
  List.append_assoc _ _ _

/-- The one frame among the events of a completed frame. -/
@[simp] theorem framesOf_frame_fateEvents (frame : List Byte) (fate : FrameFate) :
    framesOf (.frame frame :: fateEvents fate) = [frame] := by
  cases fate <;> rfl

/-- The frames a completing byte emits. -/
theorem State.framesOf_completed (frame : List Byte) (c : Byte) (s : State) :
    framesOf ((s.completed frame c).output.drop s.output.length) = [frame] := by
  rw [State.output_completed, List.drop_left, framesOf_frame_fateEvents]

/-- Settles O13: the selection is by the target, and the operation is the completing step, whose last conjunct is
that of a fate other than the refusal. -/
theorem completeOperation : Obligations.CompleteOperation := by
  intro s c v data h hst hv hlast hd
  obtain ⟨hop, hstep⟩ := h.execHByte_of_atTarget hst ⟨v, hv, hlast⟩ hd c
  refine ⟨hop, hstep, fun hready => ?_⟩
  exact ⟨_, hstep.trans (completeStep_of_deliveryReady hready data c), rfl, rfl, rfl,
    s.framesOf_completed (data ++ [c]) c⟩

/-- A byte inside a frame becomes the last of the live ones. -/
theorem State.data_stored {s : State} {data : List Byte} (hle : s.len.toNat ≤ 260) (hd : s.data = some data)
    (c : Byte) : (s.stored c).data = some (data ++ [c]) := by
  rw [State.data, State.stored, toNat_succ hle]
  exact Memory.slice_write_end c hd

/-- Settles O42: the two cases of a byte inside a frame, neither of which looks at the byte. -/
theorem sentinelInsideFrameIsData : Obligations.SentinelInsideFrameIsData := by
  intro s c h hst
  have hle := h.assembler.i2 hst
  constructor
  · intro hbefore
    exact ⟨_, h.execHByte_of_beforeTarget hst hbefore c, hst, toNat_succ hle, Memory.read_write_same _ _ _, rfl⟩
  · intro hat hready
    obtain ⟨data, hd, -⟩ := h.data_some
    obtain ⟨hop, hstep⟩ := h.execHByte_of_atTarget hst hat hd c
    exact ⟨_, data, (hop.trans hstep).trans (completeStep_of_deliveryReady hready data c), rfl, hd,
      s.framesOf_completed (data ++ [c]) c⟩

/-- The invariants do not speak of the events to come. -/
theorem StateInv.setInput {s : State} (h : StateInv s) (input : List Event) : StateInv (s.setInput input) :=
  h.congr rfl rfl rfl rfl rfl rfl

/-- Settles O43: of the events only a reset and a byte at the target lead to the idle state, which is empty (R15). -/
theorem frameEndsOnlyAtTarget : Obligations.FrameEndsOnlyAtTarget := by
  intro s t h hst ht hidle
  obtain ⟨hlen, htgt⟩ := (stepKeepsInvariant s t h ht).assembler.i1 hidle
  obtain ⟨-, rfl⟩ | ⟨c, rest, hin, hbyte⟩ | ⟨rest, hin, rfl⟩ | ⟨rest, -, rfl⟩ | ⟨rest, a, b, -, rfl⟩ := step_cases ht
  · exact absurd (hst.symm.trans hidle) (by decide)
  · obtain ⟨data, hd, -⟩ := (h.setInput rest).data_some
    obtain ⟨hst', -⟩ | ⟨-, -, hstored⟩ | ⟨-, ⟨v, hv, hlast⟩, -⟩ := (h.setInput rest).byte_cases hd c
    · exact absurd (hst.symm.trans hst') (by decide)
    · cases hbyte.symm.trans hstored
      exact absurd (hst.symm.trans hidle) (by decide)
    · exact .inr ⟨c, v, by rw [hin]; rfl, hv, hlast, hlen, htgt⟩
  · exact .inl (by rw [hin]; rfl)
  · exact absurd (hst.symm.trans hidle) (by decide)
  · exact absurd (hst.symm.trans hidle) (by decide)

/-- The target is the one the fifth byte of the frame in progress declares (R15, I4). -/
theorem StateInv.tgt_of_data {s : State} {data : List Byte} {v : Cnt} (h : StateInv s)
    (hst : s.st = .accumulatingFrame) (hd : s.data = some data) (hv : s.tgt = some v) :
    5 ≤ data.length ∧ v.toNat = 6 + (byteAt data 4).toNat := by
  obtain ⟨hlen, hread⟩ := Memory.slice_some hd
  obtain ⟨b, hb, hvb, -⟩ := h.assembler.i4 v hv
  have h5 : 5 ≤ s.len.toNat := (h.assembler.i3 hst).mp (by rw [hv]; rfl)
  have hb' : b = byteAt data 4 := Option.some.inj (hb.symm.trans (hread 4 (by omega)))
  exact ⟨by omega, by rw [hvb, hb']⟩

/-- The frames a byte emits: none, or at the target the live bytes and that byte. -/
theorem StateInv.framesOf_byte {s t : State} {data : List Byte} {c : Byte} (h : StateInv s)
    (hd : s.data = some data) (ht : execHByte c s = .next t) :
    framesOf (t.output.drop s.output.length) = [] ∨ s.st = .accumulatingFrame ∧ AtTarget s ∧
      framesOf (t.output.drop s.output.length) = [data ++ [c]] := by
  obtain ⟨-, hbyte⟩ | ⟨-, -, hbyte⟩ | ⟨hst, hat, hbyte⟩ := h.byte_cases hd c <;> rw [hbyte] at ht
  · split at ht <;> cases ht <;> exact .inl (by simp [framesOf])
  · cases ht
    exact .inl (by simp [State.stored, framesOf])
  · obtain ⟨-, rfl⟩ := completeStep_eq_next.mp ht
    exact .inr ⟨hst, hat, s.framesOf_completed (data ++ [c]) c⟩

/-- Settles O36: only a byte at the target emits a frame, and the target is what the fifth byte declares. -/
theorem framesHaveDeclaredLength : Obligations.FramesHaveDeclaredLength := by
  intro s t f h ht hf
  obtain ⟨-, rfl⟩ | ⟨c, rest, -, hbyte⟩ | ⟨rest, -, rfl⟩ | ⟨rest, -, rfl⟩ | ⟨rest, a, b, -, rfl⟩ := step_cases ht
  case inr.inl =>
    obtain ⟨data, hd, hdata⟩ := (h.setInput rest).data_some
    obtain hnone | ⟨hst, ⟨v, hv, hlast⟩, hone⟩ := (h.setInput rest).framesOf_byte hd hbyte
    · rw [State.output_setInput] at hnone
      simp [hnone] at hf
    · rw [State.output_setInput] at hone
      obtain rfl : f = data ++ [c] := by simpa [hone] using hf
      obtain ⟨h5, htgt⟩ := (h.setInput rest).tgt_of_data hst hd hv
      have hfour : byteAt (data ++ [c]) 4 = byteAt data 4 := List.getD_append _ _ _ _ (by omega)
      rw [List.length_append, List.length_singleton, hfour]
      omega
  all_goals simp [framesOf] at hf

/-- A byte has a next state, or is refused for a delivery without labels (R98, R196 b). -/
theorem StateInv.byte_stops_only_for_labels {s : State} (h : StateInv s) (c : Byte) :
    (∃ t, execHByte c s = .next t) ∨ execHByte c s = .refused .labelsNotSet ∧ ¬ DeliveryReady s := by
  obtain ⟨data, hd, -⟩ := h.data_some
  obtain ⟨-, hbyte⟩ | ⟨-, -, hbyte⟩ | ⟨-, -, hbyte⟩ := h.byte_cases hd c <;> rw [hbyte]
  · split <;> exact .inl ⟨_, rfl⟩
  · exact .inl ⟨_, rfl⟩
  · by_cases hrefused : frameFate s.sinkEn s.labels? (data ++ [c]) = .refused
    · exact .inr ⟨completeStep_of_refused hrefused, not_deliveryReady_of_refused hrefused⟩
    · exact .inl ⟨_, completeStep_eq_next.mpr ⟨hrefused, rfl⟩⟩

/-- Settles O32: every event but a byte has a next state, and a byte is refused only for a refused fate. -/
theorem stepStopsOnlyForLabels : Obligations.StepStopsOnlyForLabels := by
  intro s h
  cases hin : s.input with
  | nil => exact .inl ⟨s, step_of_input_nil hin⟩
  | cons e rest =>
    rw [step_of_input_cons hin]
    cases e with
    | byte c => exact (h.setInput rest).byte_stops_only_for_labels c
    | reset | registerSink | setLabels => exact .inl ⟨_, rfl⟩

end Sys2Proof.Machine
end

section
/-! Chunks (R100 to R104, R145): what feeding a list of bytes does, by induction on the list. -/

namespace Sys2Proof.Machine

/-- Chunks fed in order after an outcome are the joined chunk fed after it. -/
theorem foldl_andThen_execHFeed (chunks : List (List Byte)) (o : Result) :
    chunks.foldl (fun o chunk => andThen o (execHFeed chunk)) o = andThen o (execHFeed chunks.flatten) := by
  induction chunks generalizing o with
  | nil => exact (andThen_next_right o).symm
  | cons chunk rest ih =>
    rw [List.foldl_cons, ih, andThen_assoc, List.flatten_cons]
    exact congrArg (andThen o) (funext fun s => (execHFeed_append chunk rest.flatten s).symm)

/-- Settles O45: the fold from `s` itself. -/
theorem fragmentationInvariance : Obligations.FragmentationInvariance := fun chunks s =>
  (foldl_andThen_execHFeed chunks (.next s)).symm

/-- Settles O44: by the chunk; each byte is A_DISCARD (O8). -/
theorem noiseIsDiscarded : Obligations.NoiseIsDiscarded := by
  intro s chunk hst hnoise
  induction chunk with
  | nil => rfl
  | cons c rest ih =>
    obtain ⟨hc, hrest⟩ := List.forall_mem_cons.mp hnoise
    have hbyte : execHByte c s = .next s := (execHByte_of_awaitingStart hst c).trans (if_neg hc)
    show andThen (execHByte c s) (execHFeed rest) = .next s
    rw [hbyte]
    exact ih hrest

/-- What a delivery depends on beside the frame is the same: the consumer and the labels (R16, R19). -/
structure SameConfig (s t : State) : Prop where
  sinkEn : t.sinkEn = s.sinkEn
  devName : t.devName = s.devName
  tempLabel : t.tempLabel = s.tempLabel

theorem SameConfig.trans {s t u : State} (h : SameConfig s t) (h' : SameConfig t u) : SameConfig s u :=
  ⟨h'.sinkEn.trans h.sinkEn, h'.devName.trans h.devName, h'.tempLabel.trans h.tempLabel⟩

theorem SameConfig.deliveryReady {s t : State} (h : SameConfig s t) (hready : DeliveryReady s) : DeliveryReady t := by
  unfold DeliveryReady LabelsSet
  rw [h.sinkEn, h.devName, h.tempLabel]
  exact hready

theorem SameConfig.labels {s t : State} (h : SameConfig s t) : t.labels? = s.labels? := by
  simp only [State.labels?, h.devName, h.tempLabel]

/-- No byte touches the configuration (R92 to R97). -/
theorem StateInv.sameConfig_byte {s t : State} {c : Byte} (h : StateInv s) (ht : execHByte c s = .next t) :
    SameConfig s t := by
  obtain ⟨data, hd, -⟩ := h.data_some
  obtain ⟨-, hbyte⟩ | ⟨-, -, hbyte⟩ | ⟨-, -, hbyte⟩ := h.byte_cases hd c <;> rw [hbyte] at ht
  · split at ht <;> cases ht <;> exact ⟨rfl, rfl, rfl⟩
  · cases ht
    exact ⟨rfl, rfl, rfl⟩
  · obtain ⟨-, rfl⟩ := completeStep_eq_next.mp ht
    exact ⟨rfl, rfl, rfl⟩

/-- Where a delivery would have its labels a byte has a next state. -/
theorem StateInv.byte_runs {s : State} (h : StateInv s) (hready : DeliveryReady s) (c : Byte) :
    ∃ t, execHByte c s = .next t :=
  (h.byte_stops_only_for_labels c).resolve_right fun hstop => hstop.2 hready

/-- Settles O33: by the chunk; every byte keeps the invariants and the configuration. -/
theorem anyStreamRuns : Obligations.AnyStreamRuns := by
  intro s h hready
  refine ⟨h.byte_runs hready, fun chunk => ?_⟩
  induction chunk generalizing s with
  | nil => exact ⟨s, rfl, h, hready⟩
  | cons c rest ih =>
    obtain ⟨u, hu⟩ := h.byte_runs hready c
    obtain ⟨t, ht, hinv⟩ := ih u (h.byte hu) ((h.sameConfig_byte hu).deliveryReady hready)
    exact ⟨t, andThen_eq_next.mpr ⟨u, hu, ht⟩, hinv⟩

/-! How many frames a chunk can complete (R104). -/

/-- How many of the seven bytes that every frame takes, sentinel and tail byte included, the frame in progress
has had, at most six of them before it completes. -/
def progress (s : State) : Nat :=
  match s.st with
  | .awaitingStart => 0
  | .accumulatingFrame => min (s.len.toNat + 1) 6

theorem progress_le (s : State) : progress s ≤ 6 := by
  unfold progress
  split <;> omega

/-- Each byte makes one byte of progress, and a frame is completed only for seven. -/
theorem StateInv.frames_progress_byte {s t : State} {c : Byte} (h : StateInv s) (ht : execHByte c s = .next t) :
    7 * (framesOf (t.output.drop s.output.length)).length + progress t ≤ progress s + 1 := by
  obtain ⟨data, hd, -⟩ := h.data_some
  obtain ⟨hst, hbyte⟩ | ⟨hst, -, hbyte⟩ | ⟨hst, hat, hbyte⟩ := h.byte_cases hd c <;> rw [hbyte] at ht
  · split at ht <;> cases ht <;> simp [framesOf, progress]
  · cases ht
    have hle := h.assembler.i2 hst
    simp [State.stored, framesOf, progress, hst]
    omega
  · obtain ⟨-, rfl⟩ := completeStep_eq_next.mp ht
    have h5 := h.five_le_len hst hat
    have hidle : progress (s.completed (data ++ [c]) c) = 0 := rfl
    have hsix : progress s = 6 := by simp only [progress, hst]; omega
    rw [s.framesOf_completed, hidle, hsix, List.length_singleton]

/-- A chunk's frames, paid for by its bytes and the progress before it. -/
theorem StateInv.frames_progress_feed {s t : State} {chunk : List Byte} (h : StateInv s)
    (ht : execHFeed chunk s = .next t) :
    ∃ events, t.output = s.output ++ events ∧
      7 * (framesOf events).length + progress t ≤ progress s + chunk.length := by
  induction chunk generalizing s with
  | nil => cases ht; exact ⟨[], by simp, by simp [framesOf]⟩
  | cons c rest ih =>
    obtain ⟨u, hu, hrest⟩ := andThen_eq_next.mp ht
    obtain ⟨events, hout, -⟩ := execHByte_addsStepEvents hu
    have hbyte := h.frames_progress_byte hu
    rw [hout, List.drop_left] at hbyte
    obtain ⟨events', hout', hfeed⟩ := ih (h.byte hu) hrest
    refine ⟨events ++ events', by rw [hout', hout, List.append_assoc], ?_⟩
    rw [framesOf_append, List.length_append, List.length_cons]
    omega

/-- Settles O48: the progress before the chunk is worth at most six bytes. -/
theorem framesPerChunk : Obligations.FramesPerChunk := by
  intro s chunk t h ht
  obtain ⟨events, hout, hcount⟩ := h.frames_progress_feed ht
  have hprogress := progress_le s
  rw [hout, List.drop_left]
  split <;> omega

/-! Frames fed one after another (R101). -/

/-- From `s` the bytes fed lead to an idle state with the same configuration, and emit `events`. -/
structure FeedsToIdle (bytes : List Byte) (s : State) (events : List OutEvent) (t : State) : Prop where
  runs : execHFeed bytes s = .next t
  inv : StateInv t
  idle : t.st = .awaitingStart
  config : SameConfig s t
  output : t.output = s.output ++ events

theorem FeedsToIdle.append {bytes bytes' : List Byte} {events events' : List OutEvent} {s t u : State}
    (h : FeedsToIdle bytes s events t) (h' : FeedsToIdle bytes' t events' u) :
    FeedsToIdle (bytes ++ bytes') s (events ++ events') u where
  runs := by rw [execHFeed_append, h.runs]; exact h'.runs
  inv := h'.inv
  idle := h'.idle
  config := h.config.trans h'.config
  output := by rw [h'.output, h.output, List.append_assoc]

theorem feedsToIdle_noise {s : State} {noise : List Byte} (h : StateInv s) (hst : s.st = .awaitingStart)
    (hnoise : ∀ c ∈ noise, c ≠ 0xAA) : FeedsToIdle noise s [] s :=
  ⟨noiseIsDiscarded s noise hst hnoise, h, hst, ⟨rfl, rfl, rfl⟩, by simp⟩

/-- The events of a completed frame: its `Frame`, then those of its fate. -/
def frameEvents (s : State) (frame : List Byte) : List OutEvent :=
  .frame frame :: fateEvents (frameFate s.sinkEn s.labels? frame)

theorem SameConfig.frameEvents {s t : State} (h : SameConfig s t) (frame : List Byte) :
    frameEvents t frame = frameEvents s frame := by
  rw [Machine.frameEvents, h.sinkEn, h.labels, Machine.frameEvents]

theorem FeedsToIdle.cons {bytes : List Byte} {events : List OutEvent} {s t u : State} {c : Byte}
    (hbyte : execHByte c s = .next u) (hconfig : SameConfig s u) (hout : u.output = s.output)
    (h : FeedsToIdle bytes u events t) : FeedsToIdle (c :: bytes) s events t where
  runs := andThen_eq_next.mpr ⟨u, hbyte, h.runs⟩
  inv := h.inv
  idle := h.idle
  config := hconfig.trans h.config
  output := by rw [h.output, hout]

/-- Inside a frame of its declared length, the target is the frame's length. -/
theorem StateInv.tgt_eq_length {s : State} {data more frame : List Byte} {v : Cnt} (h : StateInv s)
    (hst : s.st = .accumulatingFrame) (hd : s.data = some data) (hsplit : data ++ more = frame)
    (hframe : frame.length = 6 + (byteAt frame 4).toNat) (hv : s.tgt = some v) : v.toNat = frame.length := by
  obtain ⟨h5, htgt⟩ := h.tgt_of_data hst hd hv
  have hfour : byteAt frame 4 = byteAt data 4 := by
    rw [← hsplit]
    exact List.getD_append _ _ _ _ (by omega)
  rw [htgt, hframe, hfour]

/-- The last byte of a frame of its declared length comes at the target, and completes it. -/
theorem feedsToIdle_tail {s : State} {data frame : List Byte} {tail : Byte} (h : StateInv s)
    (hready : DeliveryReady s) (hst : s.st = .accumulatingFrame) (hd : s.data = some data)
    (hsplit : data ++ [tail] = frame) (hframe : frame.length = 6 + (byteAt frame 4).toNat) :
    FeedsToIdle [tail] s (frameEvents s frame) (s.completed frame tail) := by
  have hlen : data.length = s.len.toNat := (Memory.slice_some hd).1
  have hlast : data.length + 1 = frame.length := by rw [← hsplit, List.length_append, List.length_singleton]
  obtain ⟨v, hv⟩ := Option.isSome_iff_exists.mp ((h.assembler.i3 hst).mpr (by omega))
  have hv' := h.tgt_eq_length hst hd hsplit hframe hv
  obtain ⟨hop, hstep⟩ := h.execHByte_of_atTarget hst ⟨v, hv, by omega⟩ hd tail
  have hbyte : execHByte tail s = .next (s.completed frame tail) := by
    rw [hop, hstep, completeStep_of_deliveryReady hready, hsplit]
  exact ⟨andThen_eq_next.mpr ⟨_, hbyte, rfl⟩, h.byte hbyte, rfl, ⟨rfl, rfl, rfl⟩, s.output_completed frame tail⟩

/-- The rest of a frame of its declared length completes it: by the bytes still to come, all but the last of them
before the target. -/
theorem feedsToIdle_rest {frame : List Byte} {tail : Byte} (hframe : frame.length = 6 + (byteAt frame 4).toNat)
    {rest data : List Byte} {s : State} (hsplit : data ++ (rest ++ [tail]) = frame) (h : StateInv s)
    (hready : DeliveryReady s) (hst : s.st = .accumulatingFrame) (hd : s.data = some data) :
    ∃ t, FeedsToIdle (rest ++ [tail]) s (frameEvents s frame) t := by
  induction rest generalizing data s with
  | nil => exact ⟨_, feedsToIdle_tail h hready hst hd hsplit hframe⟩
  | cons c rest ih =>
    have hlen : data.length = s.len.toNat := (Memory.slice_some hd).1
    have hbefore : BeforeTarget s := by
      intro v hv
      have hlong : frame.length = data.length + (rest.length + 1 + 1) := by rw [← hsplit]; simp
      rw [h.tgt_eq_length hst hd hsplit hframe hv]
      omega
    have hbyte := h.execHByte_of_beforeTarget hst hbefore c
    have hdata := s.data_stored (h.assembler.i2 hst) hd c
    obtain ⟨t, ht⟩ := ih (s := s.stored c) (by simpa using hsplit) (h.byte hbyte) hready hst hdata
    exact ⟨t, .cons hbyte ⟨rfl, rfl, rfl⟩ rfl ht⟩

/-- The length byte of a described frame declares its length (R60). -/
theorem length_frameData {f : FrameDesc} (h : f.body.length ≤ 255) :
    (frameData f).length = 6 + (byteAt (frameData f) 4).toNat := by
  have hmod : f.body.length % 256 = f.body.length := Nat.mod_eq_of_lt (by omega)
  simp [frameData, byteAt, hmod]
  omega

/-- A frame on the wire, from its sentinel on, gives its own events (R60, R97). -/
theorem feedsToIdle_frameWire {s : State} {f : FrameDesc} (h : StateInv s) (hready : DeliveryReady s)
    (hst : s.st = .awaitingStart) (hbody : f.body.length ≤ 255) :
    ∃ t, FeedsToIdle (frameWire f) s (frameEvents s (frameData f)) t := by
  have hbyte : execHByte sentinel s = execAStart s := execHByte_of_awaitingStart hst sentinel
  obtain ⟨t, ht⟩ := feedsToIdle_rest (length_frameData hbody) (data := []) (List.nil_append _) (h.byte hbyte) hready
    rfl rfl
  exact ⟨t, .cons hbyte ⟨rfl, rfl, rfl⟩ rfl ht⟩

/-- Noise and frames by turns give the frames' events in order (R101). -/
theorem feedsToIdle_frames (frames : List (List Byte × FrameDesc)) {s : State} (h : StateInv s)
    (hready : DeliveryReady s) (hst : s.st = .awaitingStart)
    (hframes : ∀ p ∈ frames, p.2.body.length ≤ 255 ∧ ∀ c ∈ p.1, c ≠ 0xAA) :
    ∃ t, FeedsToIdle (frames.flatMap fun p => p.1 ++ frameWire p.2) s
      (frames.flatMap fun p => frameEvents s (frameData p.2)) t := by
  induction frames generalizing s with
  | nil => exact ⟨s, feedsToIdle_noise h hst (by simp)⟩
  | cons p frames ih =>
    obtain ⟨⟨hbody, hnoise⟩, hrest⟩ := List.forall_mem_cons.mp hframes
    obtain ⟨u, hu⟩ := feedsToIdle_frameWire h hready hst hbody
    obtain ⟨t, ht⟩ := ih hu.inv (hu.config.deliveryReady hready) hu.idle hrest
    simp only [hu.config.frameEvents] at ht
    exact ⟨t, ((feedsToIdle_noise h hst hnoise).append hu).append ht⟩

/-- Settles O47: noise and frames by turns, then the noise after the last; idle is the empty idle state (R15, I1). -/
theorem concatenatedFramesComeOutInOrder : Obligations.ConcatenatedFramesComeOutInOrder := by
  intro s frames last h hst hready hframes hlast
  obtain ⟨t, ht⟩ := feedsToIdle_frames frames h hready hst hframes
  have hall := ht.append (feedsToIdle_noise ht.inv ht.idle hlast)
  obtain ⟨hlen, htgt⟩ := hall.inv.assembler.i1 hall.idle
  exact ⟨t, hall.runs, hall.idle, hlen, htgt, by simpa [frameEvents] using hall.output⟩

end Sys2Proof.Machine
end

section
/-! The decoder's frame outcomes and delivery, each with its selection (R112 to R114, R130, R131). -/

namespace Sys2Proof.Machine

/-- Delivery to a registered consumer is D_NOTIFY (R130). -/
theorem deliver_of_sinkEn {s : State} (h : s.sinkEn = true) : deliver s = execDNotify s := by
  rw [deliver_eq, if_pos h]

/-- Delivery without a consumer is D_DISCARD (R131). -/
theorem deliver_of_sinkEn_false {s : State} (h : s.sinkEn = false) : deliver s = execDDiscard s := by
  rw [deliver_eq, h]
  rfl

/-- Settles O20: discarding returns the state, and the DELIVER row of the bit 0 selects it. -/
theorem discardRecordOperation : Obligations.DiscardRecordOperation :=
  ⟨fun _ => rfl, fun _ => deliver_of_sinkEn_false⟩

/-- Settles O19: the DELIVER row of the bit 1, and the write of `REC` with its one event. -/
theorem notifyOperation : Obligations.NotifyOperation :=
  ⟨fun _ => deliver_of_sinkEn, fun _ r name label hr hname hlabel =>
    execDNotify_eq_next.mpr ⟨r, name, label, hr, hname, hlabel, rfl⟩⟩

/-- Settles O16: dropping returns the state; the filter sends every other pair of discriminators to D_DROP. -/
theorem dropOperation : Obligations.DropOperation := by
  refine ⟨fun _ _ _ _ => rfl, fun n src typ => ?_⟩
  rw [selectFrame_frameSel]
  split_ifs with htelem hlt
  · exact iff_of_false (by decide) (by simp [htelem])
  · exact iff_of_false (by decide) (by simp [htelem])
  · exact iff_of_true rfl (Decidable.not_and_iff_not_or_not.mp htelem)

/-- Settles O17: the mark and the event of `raiseShort`; past the filter the length test selects it. -/
theorem shortOperation : Obligations.ShortOperation := by
  refine ⟨fun s n hn => ?_, fun n src typ => ?_⟩
  · show execDShort s = .next (raiseShort n s)
    simp only [execDShort, hn]
  · rw [selectFrame_frameSel, ← and_assoc]
    split_ifs with htelem hlt
    · exact iff_of_true rfl ⟨htelem, hlt⟩
    · exact iff_of_false (by decide) fun h => hlt h.2
    · exact iff_of_false (by decide) fun h => htelem h.1

/-- Settles O18: the thirteen extractions give the record of the frame's bytes, which is then delivered by `sink_en`. -/
theorem telemetryOperation : Obligations.TelemetryOperation := by
  refine ⟨fun s n frame hn h35 hs => ?_, fun n src typ => ?_⟩
  · obtain ⟨d, hr, hname, hlabel, hrun⟩ := inOrder_extractions hn h35 hs
    have hexec : exec .dTelem s = deliver (s.setDraft d) := by
      show andThen (inOrder extractions s) deliver = _
      rw [hrun, andThen_next]
    refine ⟨fun hsink => ⟨d, hr, ?_⟩, fun hsink name label hdev htemp => ⟨d, hr, ?_⟩⟩
    · exact hexec.trans (deliver_of_sinkEn_false hsink)
    · refine (hexec.trans (deliver_of_sinkEn hsink)).trans ?_
      exact execDNotify_eq_next.mpr ⟨_, name, label, hr, hname.trans hdev, hlabel.trans htemp, rfl⟩
  · rw [selectFrame_frameSel, ← and_assoc]
    split_ifs with htelem hlt
    · exact iff_of_false (by decide) fun h => absurd h.2 (Nat.not_le.mpr hlt)
    · exact iff_of_true rfl ⟨htelem, Nat.not_lt.mp hlt⟩
    · exact iff_of_false (by decide) fun h => htelem h.1

end Sys2Proof.Machine
end

section
/-! The field operations on the bytes they read (R116 to R128), and the values of the record's fields (R115). -/

namespace Sys2Proof.Machine

/-- A two-byte field operation writes `lo + 256 * hi` (R42, R66). -/
theorem loadField_of_twoBytesAt {s : State} {i : Nat} {lo hi : Byte} (h : TwoBytesAt s i lo hi)
    (put : Draft → Half → Draft) : ∃ v : Half, v.toNat = lo.toNat + 256 * hi.toNat ∧
      loadField (memRead2 i s) put s = .next (s.setDraft (put s.draft v)) := by
  obtain ⟨-, hword, -⟩ := frameReads
  obtain ⟨v, hread, hv⟩ := hword s i lo hi h
  exact ⟨v, hv, by rw [hread, loadField_ok]⟩

/-- A one-byte field operation writes what it makes of the byte (R43, R66). -/
theorem loadField_of_oneByteAt {s : State} {i : Nat} {b : Byte} (h : OneByteAt s i b) (put : Draft → Byte → Draft) :
    loadField (memRead1 i s) put s = .next (s.setDraft (put s.draft b)) := by
  rw [memRead1_eq_ok.mpr h, loadField_ok]

/-- Settles O21: each is a two-byte field operation at its own index, into its own field. -/
theorem wordFieldOperations : Obligations.WordFieldOperations := by
  intro s lo hi
  dsimp only [exec]
  exact ⟨fun h => loadField_of_twoBytesAt h _, fun h => loadField_of_twoBytesAt h _,
    fun h => loadField_of_twoBytesAt h _, fun h => loadField_of_twoBytesAt h _⟩

/-- Settles O23: each is a one-byte field operation at its own index that writes the byte itself. -/
theorem byteFieldOperations : Obligations.ByteFieldOperations := by
  intro s b
  dsimp only [exec]
  exact ⟨fun h => loadField_of_oneByteAt h _, fun h => loadField_of_oneByteAt h _⟩

/-- Nine bits hold the signed temperature of every byte (R125). -/
theorem toInt_s8t200 (b : Byte) : (s8t200 b).toInt = if 200 ≤ b.toNat then (b.toNat : Int) - 256 else b.toNat := by
  have hb := b.isLt
  rw [s8t200_eq, BitVec.toInt_ofInt_eq_self (by decide)] <;> split <;> omega

/-- Settles O24: a one-byte field operation that writes the signed reading; the bounds are those of its two cases. -/
theorem signedTemperatureOperation : Obligations.SignedTemperatureOperation := by
  intro s b h
  have hb := b.isLt
  dsimp only [exec]
  refine ⟨s8t200 b, loadField_of_oneByteAt h _, toInt_s8t200 b, ?_⟩
  rw [toInt_s8t200]
  split <;> omega

/-- Settles O25: X_LABELS writes the record's labels and reads no frame. -/
theorem labelsOperation : Obligations.LabelsOperation := fun _ => rfl

/-- The value of a divided field is a tenth of the register's number (R115). -/
theorem fieldValue_of_divided {f : Field} (h : fieldLayout f = .u16leDiv10) (r : RegSet) :
    fieldValue r f = (regRaw r f : Rat) / 10 := by
  rw [fieldValue, h]
  rfl

/-- The value of any other field is the register's number (R115). -/
theorem fieldValue_of_not_divided {f : Field} (h : fieldLayout f ≠ .u16leDiv10) (r : RegSet) :
    fieldValue r f = (regRaw r f : Rat) := by
  have hscale : layoutScale (fieldLayout f) = 1 := by
    cases hlayout : fieldLayout f with
    | u16leDiv10 => exact absurd hlayout h
    | u16le | u8 | s8t200 => rfl
  rw [fieldValue, hscale, Nat.cast_one, div_one]

/-- A tenth of a number is its quotient by 10 and one fractional digit. -/
theorem div_ten_eq_quotient_add_digit (k : Int) :
    (k : Rat) / 10 = ((k / 10 : Int) : Rat) + ((k % 10 : Int) : Rat) / 10 := by
  have hk : (k : Rat) = ((10 * (k / 10) + k % 10 : Int) : Rat) := by rw [Int.mul_ediv_add_emod]
  push_cast at hk
  linarith

/-- Settles O26: by whether the field is divided; then each register by its own layout. -/
theorem dividedValuesAreExact : Obligations.DividedValuesAreExact := by
  refine ⟨fun r f h => ?_, fun r f h => fieldValue_of_not_divided h r, fun r => ?_⟩
  · rw [fieldValue_of_divided h]
    exact ⟨div_mul_cancel₀ _ (by norm_num), div_ten_eq_quotient_add_digit _⟩
  · refine ⟨?_, ?_, ?_, ?_, ?_, ?_, ?_, ?pv, ?bat, ?chg, ?loadV, ?loadC⟩
    case pv | bat | chg | loadV | loadC => exact fieldValue_of_divided rfl r
    all_goals exact fieldValue_of_not_divided (by decide) r

/-- Settles O22: each is a two-byte field operation at its own index; the values are among those of O26. -/
theorem tenthsFieldOperations : Obligations.TenthsFieldOperations := by
  refine ⟨fun s lo hi => ?_, fun r => ?_⟩
  · dsimp only [exec]
    exact ⟨fun h => loadField_of_twoBytesAt h _, fun h => loadField_of_twoBytesAt h _,
      fun h => loadField_of_twoBytesAt h _, fun h => loadField_of_twoBytesAt h _, fun h => loadField_of_twoBytesAt h _⟩
  · obtain ⟨-, -, hvalues⟩ := dividedValuesAreExact
    obtain ⟨-, -, -, -, -, -, -, htenths⟩ := hvalues r
    exact htenths

end Sys2Proof.Machine
end

section
/-! The order of the extractions (R113): each takes its own part of the record from the frame, so what a sequence of
them leaves depends only on which are in it. -/

namespace Sys2Proof.Machine

/-- What the thirteen extractions find in the state, field by field; nothing where a read stops (R116 to R128). -/
def State.extracted (s : State) : Draft where
  chgMode := (memRead2 (fieldIndex .chgMode) s).toOption
  pvVolt := (memRead2 (fieldIndex .pvVolt) s).toOption
  batVolt := (memRead2 (fieldIndex .batVolt) s).toOption
  chgCur := (memRead2 (fieldIndex .chgCur) s).toOption
  loadVolt := (memRead2 (fieldIndex .loadVolt) s).toOption
  loadCur := (memRead2 (fieldIndex .loadCur) s).toOption
  chgPower := (memRead2 (fieldIndex .chgPower) s).toOption
  loadPower := (memRead2 (fieldIndex .loadPower) s).toOption
  extTemp := (memRead1 (fieldIndex .extTemp) s).toOption
  intTemp := (memRead1 (fieldIndex .intTemp) s).toOption.map s8t200
  soc := (memRead1 (fieldIndex .soc) s).toOption
  co2Gram := (memRead2 (fieldIndex .co2Gram) s).toOption
  devName := s.devName
  tempLabel := s.tempLabel

/-- The record `d` with the parts that the operations `ops` write taken from `e`. -/
def Draft.takeFrom (e : Draft) (ops : List Instr) (d : Draft) : Draft where
  chgMode := if .xChgMode ∈ ops then e.chgMode else d.chgMode
  pvVolt := if .xPvVolt ∈ ops then e.pvVolt else d.pvVolt
  batVolt := if .xBatVolt ∈ ops then e.batVolt else d.batVolt
  chgCur := if .xChgCur ∈ ops then e.chgCur else d.chgCur
  loadVolt := if .xLoadVolt ∈ ops then e.loadVolt else d.loadVolt
  loadCur := if .xLoadCur ∈ ops then e.loadCur else d.loadCur
  chgPower := if .xChgPower ∈ ops then e.chgPower else d.chgPower
  loadPower := if .xLoadPower ∈ ops then e.loadPower else d.loadPower
  extTemp := if .xExtTemp ∈ ops then e.extTemp else d.extTemp
  intTemp := if .xIntTemp ∈ ops then e.intTemp else d.intTemp
  soc := if .xSoc ∈ ops then e.soc else d.soc
  co2Gram := if .xCo2Gram ∈ ops then e.co2Gram else d.co2Gram
  devName := if .xLabels ∈ ops then e.devName else d.devName
  tempLabel := if .xLabels ∈ ops then e.tempLabel else d.tempLabel

/-- Parts taken one after another from the same record are the parts taken together. -/
theorem Draft.takeFrom_cons (e d : Draft) (i : Instr) (ops : List Instr) :
    e.takeFrom ops (e.takeFrom [i] d) = e.takeFrom (i :: ops) d := by
  have hpart : ∀ {α : Type} (j : Instr) (x y : α),
      (if j ∈ ops then x else if j ∈ [i] then x else y) = if j ∈ i :: ops then x else y := by
    intro α j x y
    by_cases hops : j ∈ ops <;> simp [hops]
  simp only [takeFrom, hpart]

/-- Only which operations there are matters, not their order. -/
theorem Draft.takeFrom_perm {ops ops' : List Instr} (h : ops.Perm ops') (e d : Draft) :
    e.takeFrom ops d = e.takeFrom ops' d := by
  simp only [takeFrom, h.mem_iff]

/-- A field write that runs from one record being built runs from every other. -/
theorem loadField_setDraft_of_runs {α : Type} {value : Except Fault α} {put : Draft → α → Draft} {part : Draft → Draft}
    {s t : State} (h : loadField value put s = .next t) (hput : ∀ v d, value = .ok v → put d v = part d) (d : Draft) :
    loadField value put (s.setDraft d) = .next (s.setDraft (part d)) := by
  obtain ⟨v, hv, -⟩ := loadField_eq_next.mp h
  rw [hv, loadField_ok, State.draft_setDraft, setDraft_setDraft, hput v d hv]

/-- The field operations are those of the twelve registers, and X_LABELS. -/
theorem fieldInstr_or_xLabels_of_mem_fieldOps {i : Instr} (h : i ∈ fieldOps) :
    (∃ f, i = fieldInstr f) ∨ i = .xLabels := by
  obtain hreg | hlabels := List.mem_append.mp h
  · obtain ⟨f, -, hf⟩ := List.mem_map.mp hreg
    exact .inl ⟨f, hf.symm⟩
  · exact .inr (List.mem_singleton.mp hlabels)

/-- A field operation that runs takes its part from the frame, whatever the record so far (R116 to R128). -/
theorem exec_setDraft_of_mem_fieldOps {i : Instr} {s t : State} (hi : i ∈ fieldOps) (h : exec i s = .next t)
    (d : Draft) : exec i (s.setDraft d) = .next (s.setDraft (s.extracted.takeFrom [i] d)) := by
  obtain ⟨f, rfl⟩ | rfl := fieldInstr_or_xLabels_of_mem_fieldOps hi
  · cases f
    all_goals
      dsimp only [fieldInstr, exec] at h ⊢
      refine loadField_setDraft_of_runs h (fun v d hv => ?_) d
      simp only [State.extracted, hv]
      rfl
  · rfl

/-- Where a sequence of field operations runs, each of them runs from the state it starts in. -/
theorem exec_runs_of_inOrder {ops : List Instr} (hops : ∀ i ∈ ops, i ∈ fieldOps) {s t : State}
    (h : inOrder (ops.map exec) s = .next t) : ∀ i ∈ ops, ∃ u, exec i s = .next u := by
  induction ops generalizing s with
  | nil => exact List.forall_mem_nil _
  | cons i rest ih =>
    obtain ⟨hi, hrest⟩ := List.forall_mem_cons.mp hops
    obtain ⟨u, hu, ht⟩ := andThen_eq_next.mp h
    obtain rfl := Host.Outcome.next.inj (hu.symm.trans (exec_setDraft_of_mem_fieldOps hi hu s.draft))
    refine List.forall_mem_cons.mpr ⟨⟨_, hu⟩, fun j hj => ?_⟩
    obtain ⟨w, hw⟩ := ih hrest ht j hj
    exact ⟨_, exec_setDraft_of_mem_fieldOps (hrest j hj) hw s.draft⟩

/-- Field operations that run, one after another: each part of the record they write comes from the frame. -/
theorem inOrder_map_exec {ops : List Instr} (hops : ∀ i ∈ ops, i ∈ fieldOps) {s : State}
    (hrun : ∀ i ∈ ops, ∃ u, exec i s = .next u) (d : Draft) :
    inOrder (ops.map exec) (s.setDraft d) = .next (s.setDraft (s.extracted.takeFrom ops d)) := by
  induction ops generalizing d with
  | nil => rfl
  | cons i rest ih =>
    obtain ⟨hi, hrest⟩ := List.forall_mem_cons.mp hops
    obtain ⟨⟨u, hu⟩, hruns⟩ := List.forall_mem_cons.mp hrun
    rw [List.map_cons, inOrder, exec_setDraft_of_mem_fieldOps hi hu, andThen_next, ih hrest hruns,
      Draft.takeFrom_cons]

/-- Settles O27: in every order all thirteen run, and take the same parts of the record from the frame. -/
theorem extractionOrderIsImmaterial : Obligations.ExtractionOrderIsImmaterial := by
  intro ops s t hperm h
  have hrun := exec_runs_of_inOrder (fun i hi => hi) h
  have htable := inOrder_map_exec (fun i hi => hi) hrun s.draft
  have hops := inOrder_map_exec (fun i hi => hperm.subset hi) (fun i hi => hrun i (hperm.subset hi)) s.draft
  rw [Draft.takeFrom_perm hperm, ← htable] at hops
  exact hops.trans h

end Sys2Proof.Machine
end

section
/-! H_FEED and the run of its bytes as input events (R9, R145): no byte's meaning looks at the events to come. -/

namespace Sys2Proof.Machine

/-- `b` is `a` with the events to come replaced by `input`. -/
def InputReplaced (input : List Event) (a b : State) : Prop := b = a.setInput input

/-- The decoder does not look at the events to come (R110). -/
theorem inputReplaced_decoderRelation (input : List Event) : DecoderRelation (InputReplaced input) where
  frameLen := by rintro a _ rfl; rfl
  read := by rintro a _ rfl i -; rfl
  sinkEn := by rintro a _ rfl; rfl
  put := by rintro a _ α v put - rfl; rfl
  labels := by rintro a _ rfl; exact rfl
  notify := by
    rintro a _ rfl
    unfold execDNotify
    rw [State.draft_setInput]
    split <;> exact rfl
  short := by rintro a _ n rfl; rfl

theorem respects_inputReplaced_memWrite (input : List Event) (i : Nat) (c : Byte) :
    Respects (InputReplaced input) (memWrite i c) := by
  rintro a _ rfl
  unfold memWrite
  split <;> exact rfl

theorem respects_inputReplaced_storeNext (input : List Event) (c : Byte) :
    Respects (InputReplaced input) (storeNext c) := by
  rintro a _ rfl
  refine (respects_inputReplaced_memWrite input a.len.toNat c a _ rfl).andThen ?_
  rintro u _ - rfl
  exact rfl

theorem respects_inputReplaced_handOver (input : List Event) (n : Cnt) :
    Respects (InputReplaced input) (handOver n) := by
  rintro a _ rfl
  unfold handOver
  rw [State.buf_setInput]
  split <;> exact rfl

theorem respects_inputReplaced_execAComplete (input : List Event) (c : Byte) :
    Respects (InputReplaced input) (execAComplete c) := by
  rintro a _ rfl
  refine (respects_inputReplaced_memWrite input a.len.toNat c a _ rfl).andThen fun a1 b1 _ h1 => ?_
  refine (respects_inputReplaced_handOver input (a.len + 1) a1 b1 h1).andThen fun a2 b2 _ h2 => ?_
  refine ((inputReplaced_decoderRelation input).decodeFrame a2 b2 h2).andThen ?_
  rintro u _ - rfl
  exact rfl

/-- A byte selects and performs the same operation whatever events follow it (R67, R140). -/
theorem respects_inputReplaced_execHByte (input : List Event) (c : Byte) :
    Respects (InputReplaced input) (execHByte c) := by
  rintro a _ rfl
  have hsel : byteSel (a.setInput input) c = byteSel a c := rfl
  unfold execHByte
  rw [hsel]
  cases selectByte (byteSel a c)
  case start => exact rfl
  case discard => exact rfl
  case head => exact respects_inputReplaced_storeNext input c a _ rfl
  case latch => exact rfl
  case body => exact respects_inputReplaced_storeNext input c a _ rfl
  case complete => exact respects_inputReplaced_execAComplete input c a _ rfl

/-- Outcomes whose next states are related by a function: the second is the first with the function applied. -/
theorem sameOutcome_function_iff {g : State → State} {o p : Result} :
    SameOutcome (fun a b => b = g a) o p ↔ p = andThen o fun s => .next (g s) := by
  cases o <;> cases p <;> simp [SameOutcome, eq_comm]

/-- A byte's outcome with other events to come: the same stop, or the same next state with those events. -/
theorem execHByte_setInput (input : List Event) (c : Byte) (s : State) :
    execHByte c (s.setInput input) = andThen (execHByte c s) fun t => .next (t.setInput input) :=
  sameOutcome_function_iff.mp (respects_inputReplaced_execHByte input c s _ rfl)

/-- The run of the block (`core.run`), with its state and outcome under their own names. -/
def blockRun (k : Nat) (s : State) : Result := core.run k s

/-- A run of one step more is the step and then the run. -/
theorem blockRun_succ (k : Nat) (s : State) : blockRun (k + 1) s = andThen (step s) (blockRun k) := by
  have hstep : core.step s = step s := rfl
  refine (Host.Core.run.eq_2 core s k).trans ?_
  rw [hstep]
  cases step s <;> rfl

/-- With a byte next, a run of one step more is H_BYTE, which leaves the events after it, and then the run. -/
theorem blockRun_succ_byte (k : Nat) (c : Byte) (input : List Event) (s : State) :
    blockRun (k + 1) (s.setInput (.byte c :: input)) =
      andThen (execHByte c s) fun t => blockRun k (t.setInput input) := by
  have hstep : step (s.setInput (.byte c :: input)) = execHByte c (s.setInput input) :=
    (step_of_input_cons rfl).trans rfl
  rw [blockRun_succ, hstep, execHByte_setInput, andThen_assoc]
  rfl

/-- H_FEED of one byte more is H_BYTE, which leaves the events to come, and then the feed (R145). -/
theorem execHFeed_cons_setInput (c : Byte) (more : List Byte) (input : List Event) (s : State) :
    execHFeed (c :: more) (s.setInput input) =
      andThen (execHByte c s) fun t => execHFeed more (t.setInput input) := by
  rw [execHFeed, execHByte_setInput, andThen_assoc]
  rfl

/-- Settles O46: by the chunk; both sides perform H_BYTE of the next byte and go on from the same state but for
the events to come. -/
theorem feedIsTheRunOfItsBytes : Obligations.FeedIsTheRunOfItsBytes := by
  intro chunk rest s
  show blockRun chunk.length (s.setInput (chunk.map .byte ++ rest)) = execHFeed chunk (s.setInput rest)
  induction chunk generalizing s with
  | nil => rfl
  | cons c more ih =>
    rw [List.length_cons, List.map_cons, List.cons_append, blockRun_succ_byte, execHFeed_cons_setInput]
    exact congrArg (andThen (execHByte c s)) (funext ih)

end Sys2Proof.Machine
end

section
/-! The host operations (R141 to R143, R145), and what a reset alone does. -/

namespace Sys2Proof.Machine

/-- Settles O5: the operation is that one write. -/
theorem registerSinkOperation : Obligations.RegisterSinkOperation := fun _ => rfl

/-- Settles O6: the operation is those two writes. -/
theorem setLabelsOperation : Obligations.SetLabelsOperation := fun _ _ _ => rfl

/-- Settles O7: the fold is H_FEED's own recursion, and the joined chunk is by induction on its first part. -/
theorem feedFoldsBytes : Obligations.FeedFoldsBytes :=
  ⟨fun _ => rfl, fun _ _ _ => rfl, execHFeed_append⟩

/-- A fate never clears the sticky mark (R17). -/
theorem fateFault_true (fate : FrameFate) : fateFault true fate = true := by
  cases fate <;> rfl

/-- No byte clears the sticky mark: only a completed frame touches it, and raises it (R17, R114). -/
theorem StateInv.faultShort_byte {s t : State} {c : Byte} (h : StateInv s) (hfault : s.faultShort = true)
    (ht : execHByte c s = .next t) : t.faultShort = true := by
  obtain ⟨data, hd, -⟩ := h.data_some
  obtain ⟨-, hbyte⟩ | ⟨-, -, hbyte⟩ | ⟨-, -, hbyte⟩ := h.byte_cases hd c <;> rw [hbyte] at ht
  · split at ht <;> cases ht <;> exact hfault
  · cases ht
    exact hfault
  · obtain ⟨-, rfl⟩ := completeStep_eq_next.mp ht
    show fateFault s.faultShort _ = true
    rw [hfault, fateFault_true]

/-- A byte that leaves a frame in progress completes it (R97, R99). -/
theorem StateInv.frame_of_byte_to_idle {s t : State} {c : Byte} (h : StateInv s) (hst : s.st = .accumulatingFrame)
    (hidle : t.st = .awaitingStart) (ht : execHByte c s = .next t) :
    ∃ f, f ∈ framesOf (t.output.drop s.output.length) := by
  obtain ⟨data, hd, -⟩ := h.data_some
  obtain ⟨hst', -⟩ | ⟨-, -, hbyte⟩ | ⟨-, -, hbyte⟩ := h.byte_cases hd c
  · exact absurd (hst.symm.trans hst') (by decide)
  · cases ht.symm.trans hbyte
    exact absurd (hst.symm.trans hidle) (by decide)
  · obtain ⟨-, rfl⟩ := completeStep_eq_next.mp (hbyte.symm.trans ht)
    exact ⟨data ++ [c], by rw [s.framesOf_completed]; exact List.mem_singleton.mpr rfl⟩

/-- Nothing that a reset alone undoes is undone from `s` to `t`: the two flags stay set, and a frame in progress is
left only with a frame emitted. -/
structure KeptWithoutReset (s t : State) : Prop where
  faultShort : s.faultShort = true → t.faultShort = true
  sinkEn : s.sinkEn = true → t.sinkEn = true
  frame : s.st = .accumulatingFrame → t.st = .awaitingStart → ∃ f, f ∈ framesOf (t.output.drop s.output.length)

theorem keptWithoutReset_of_st_eq {s t : State} (hfault : t.faultShort = s.faultShort)
    (hsink : s.sinkEn = true → t.sinkEn = true) (hst : t.st = s.st) : KeptWithoutReset s t where
  faultShort := hfault.trans
  sinkEn := hsink
  frame := fun hin hout => absurd (hin.symm.trans (hst.symm.trans hout)) (by decide)

/-- A step without a reset undoes nothing that a reset alone undoes. -/
theorem StateInv.reset_or_keptWithoutReset {s t : State} (h : StateInv s) (ht : step s = .next t) :
    s.input.head? = some .reset ∨ KeptWithoutReset s t := by
  obtain ⟨-, rfl⟩ | ⟨c, rest, -, hbyte⟩ | ⟨rest, hin, -⟩ | ⟨rest, -, rfl⟩ | ⟨rest, a, b, -, rfl⟩ := step_cases ht
  · exact .inr (keptWithoutReset_of_st_eq rfl id rfl)
  · have hs : StateInv (s.setInput rest) := h.setInput rest
    exact .inr
      { faultShort := fun hfault => hs.faultShort_byte hfault hbyte
        sinkEn := (hs.sameConfig_byte hbyte).sinkEn.trans
        frame := fun hst hidle => hs.frame_of_byte_to_idle hst hidle hbyte }
  · exact .inl (by rw [hin]; rfl)
  · exact .inr (keptWithoutReset_of_st_eq rfl (fun _ => rfl) rfl)
  · exact .inr (keptWithoutReset_of_st_eq rfl id rfl)

/-- Settles O3: H_RESET loads the reset table (O1); any other event keeps what only it clears. -/
theorem resetOperation : Obligations.ResetOperation := by
  refine ⟨fun s => ⟨_, rfl, resetTable_reset s.input s.output, rfl⟩, fun s t h ht => ?_⟩
  obtain hreset | hkept := h.reset_or_keptWithoutReset ht
  · exact ⟨fun _ => hreset, fun _ _ => .inl hreset⟩
  · refine ⟨?_, fun hst hidle => .inr (hkept.frame hst hidle)⟩
    rintro (⟨hset, hclear⟩ | ⟨hset, hclear⟩)
    · exact absurd ((hkept.faultShort hset).symm.trans hclear) (by decide)
    · exact absurd ((hkept.sinkEn hset).symm.trans hclear) (by decide)

end Sys2Proof.Machine
end

section
/-! The environment's driver (R150 to R152, R163): what each of its parts does, and the statements from that. -/

namespace Sys2Proof.Machine

/-- The driver after calls that fed the block: more actions, and the block as it is then. -/
def Driver.fed (d : Driver) (as : List Action) (b : State) : Driver := { d.act as with block := b }

@[simp] theorem Driver.block_fed (d : Driver) (as : List Action) (b : State) : (d.fed as b).block = b := rfl
@[simp] theorem Driver.pollTimer_fed (d : Driver) (as : List Action) (b : State) :
    (d.fed as b).pollTimer = d.pollTimer := rfl
@[simp] theorem Driver.mode_fed (d : Driver) (as : List Action) (b : State) : (d.fed as b).mode = d.mode := rfl
@[simp] theorem Driver.actions_fed (d : Driver) (as : List Action) (b : State) :
    (d.fed as b).actions = d.actions ++ as := rfl

theorem Driver.fed_fed (d : Driver) (as as' : List Action) (b b' : State) :
    (d.fed as b).fed as' b' = d.fed (as ++ as') b' := by
  simp [Driver.fed, Driver.act]

/-- What a draining loop leads to: nothing is written, the block has been fed the chunks read, and a call that
failed brought the close and the recovery regime (R150, R151). -/
def Drains (rounds : List Round) (closing : Answer Unit) (d d' : Driver) : Prop :=
  ∃ as b, (∀ m w, Action.write m w ∉ as) ∧ execHFeed (drained rounds).flatten d.block = .next b ∧
    d' = if drainFails rounds then fail closing (d.fed as b) else d.fed as b

/-- A turn that reads a chunk feeds it, and the loop goes on (R150). -/
theorem drain_read_eq_next {n : Nat} {chunk : List Byte} {rest : List Round} {closing : Answer Unit} {d d' : Driver} :
    drain (⟨.ok (n + 1), .ok chunk⟩ :: rest) closing d = .next d' ↔
      ∃ u, feedBlock chunk (d.act [.bytesWaiting (.ok (n + 1)), .read Config.chunkMax (.ok chunk)]) = .next u ∧
        drain rest closing u = .next d' := by
  dsimp only [drain]
  cases feedBlock chunk (d.act [.bytesWaiting (.ok (n + 1)), .read Config.chunkMax (.ok chunk)]) <;> simp

/-- Everything a draining loop that completes can do, by its turns. -/
theorem drains_of_drain {rounds : List Round} {closing : Answer Unit} {d d' : Driver}
    (h : drain rounds closing d = .next d') : Drains rounds closing d d' := by
  induction rounds generalizing d with
  | nil => cases h; exact ⟨[.bytesWaiting (.ok 0)], d.block, by simp, rfl, rfl⟩
  | cons r rest ih =>
    obtain ⟨waiting, read⟩ := r
    match waiting, read with
    | .failed, _ => cases h; exact ⟨[.bytesWaiting .failed], d.block, by simp, rfl, rfl⟩
    | .ok 0, _ => cases h; exact ⟨[.bytesWaiting (.ok 0)], d.block, by simp, rfl, rfl⟩
    | .ok (n + 1), .failed =>
      cases h
      exact ⟨[.bytesWaiting (.ok (n + 1)), .read Config.chunkMax .failed], d.block, by simp, rfl, rfl⟩
    | .ok (n + 1), .ok chunk =>
      obtain ⟨d1, hfeed, hrest⟩ := drain_read_eq_next.mp h
      obtain ⟨b1, hb1, rfl⟩ := feedBlock_eq_next.mp hfeed
      obtain ⟨as, b, has, hb, rfl⟩ := ih hrest
      refine ⟨[.bytesWaiting (.ok (n + 1)), .read Config.chunkMax (.ok chunk)] ++ as, b, ?_, ?_, ?_⟩
      · simpa using has
      · show execHFeed (chunk ++ (drained rest).flatten) d.block = .next b
        rw [execHFeed_append]
        exact andThen_eq_next.mpr ⟨b1, hb1, hb⟩
      · rw [← Driver.fed_fed d _ as b1 b]
        rfl

/-- Settles O54: a failed loop's close touches neither the block nor PollTimer. -/
theorem driverChunkingIsInvisible : Obligations.DriverChunkingIsInvisible := by
  intro rounds closing d d' h
  obtain ⟨as, b, -, hb, rfl⟩ := drains_of_drain h
  refine ⟨hb.trans ?_, ?_, ?_⟩ <;> split <;> rfl

/-- The poll at the end of an invocation (R150): not due, sent, or failed, which leads to recovery (R151). -/
theorem poll_eq (v : Invocation) (d : Driver) :
    poll v d =
      if 1 ≤ v.now - d.pollTimer then
        match v.writing with
        | .ok () => { d.act [.write .pollRequest (.ok ())] with pollTimer := v.now }
        | .failed => fail v.closing (d.act [.write .pollRequest .failed])
      else d := by
  have hinterval : pollInterval = 1 := rfl
  unfold poll
  rw [hinterval]
  cases v.writing <;> rfl

/-- Everything an invocation in the normal regime that completes can do: the loop, and the poll unless the loop
failed (R150). -/
theorem invoke_normal {v : Invocation} {d d' : Driver} (hmode : d.mode = .normal) (h : invoke v d = .next d') :
    ∃ as b, (∀ m w, Action.write m w ∉ as) ∧
      d' = if drainFails v.rounds then fail v.closing (d.fed as b) else poll v (d.fed as b) := by
  unfold invoke at h
  rw [hmode] at h
  cases hdrain : drain v.rounds v.closing d with
  | fault r => rw [hdrain] at h; cases h
  | refused r => rw [hdrain] at h; cases h
  | next u =>
    obtain ⟨as, b, has, -, hu⟩ := drains_of_drain hdrain
    refine ⟨as, b, has, ?_⟩
    rw [hdrain] at h
    cases hfails : drainFails v.rounds with
    | true => rw [hfails, if_pos rfl] at hu; subst hu; cases h; rfl
    | false =>
      rw [hfails, if_neg Bool.false_ne_true] at hu
      subst hu
      simp only [Driver.mode_fed, hmode] at h
      cases h
      rfl

/-- Settles O55: the loop writes nothing, so the writes counted are the poll's. -/
theorem driverPollsOncePerSecond : Obligations.DriverPollsOncePerSecond := by
  intro v d d' hmode hfails hwriting h
  obtain ⟨as, b, has, hd'⟩ := invoke_normal hmode h
  have hcount := List.count_eq_zero.mpr (has .pollRequest (.ok ()))
  rw [hfails, if_neg Bool.false_ne_true, poll_eq, hwriting, Driver.pollTimer_fed] at hd'
  subst hd'
  split <;> simp [hcount, hmode]

/-- Settles O59: the loop and the poll each end with `fail` where a call of theirs failed, and the poll is made only
after a loop without failure, with PollTimer as before it. -/
theorem transportFailureStartsRecovery : Obligations.TransportFailureStartsRecovery := by
  intro v d d' hmode h
  obtain ⟨as, b, -, rfl⟩ := invoke_normal hmode h
  cases drainFails v.rounds with
  | true => simp
  | false =>
    rw [if_neg Bool.false_ne_true, poll_eq, Driver.pollTimer_fed]
    by_cases hdue : 1 ≤ v.now - d.pollTimer
    · rw [if_pos hdue]
      cases v.writing <;> simp [hdue, hmode]
    · rw [if_neg hdue]
      simp [hdue, hmode]

/-- Everything an attempt in the recovery regime that completes can do: a read that yields bytes ends the regime,
and any other attempt adds its calls alone (R151). -/
theorem attempt_cases {p : Probe} {d d' : Driver} (hmode : d.mode = .recovering) (h : attempt p d = .next d') :
    ((∀ first more, p ≠ .bytes first more) ∧ ∃ as, d' = d.act as) ∨
      ∃ first more, p = .bytes first more ∧ d'.mode = .normal ∧
        execHFeed (if Config.probeBytesFed then first :: more else []) d.block = .next d'.block := by
  unfold attempt at h
  rw [hmode] at h
  cases p with
  | openFailed closing => cases h; exact .inl ⟨nofun, _, rfl⟩
  | readFailed closing => cases h; exact .inl ⟨nofun, _, rfl⟩
  | noBytes closing => cases h; exact .inl ⟨nofun, _, rfl⟩
  | bytes first more =>
    refine .inr ⟨first, more, rfl, ?_⟩
    dsimp only at h
    split_ifs at h ⊢
    · obtain ⟨b, hb, rfl⟩ := feedBlock_eq_next.mp h
      exact ⟨rfl, hb⟩
    · cases h
      exact ⟨rfl, rfl⟩

/-- Settles O57: the calls of each attempt, by definition. -/
theorem failedAttemptClosesAndBacksOff : Obligations.FailedAttemptClosesAndBacksOff := by
  intro closing d hmode
  simp [attempt, hmode, failAttempt]

/-- Settles O56: the two kinds of attempt. -/
theorem recoveryDoesNotResetTheBlock : Obligations.RecoveryDoesNotResetTheBlock := by
  intro p d d' hmode h
  obtain ⟨hnone, as, rfl⟩ | ⟨first, more, rfl, hnormal, hfeed⟩ := attempt_cases hmode h
  · exact ⟨fun _ => ⟨rfl, hmode⟩, fun first more hp => absurd hp (hnone first more)⟩
  · refine ⟨fun hnone => absurd rfl (hnone first more), ?_⟩
    rintro _ _ ⟨⟩
    exact ⟨hnormal, hfeed⟩

/-- The attempts are made one after another (R151). -/
theorem recover_cons_eq_next {p : Probe} {rest : List Probe} {d d' : Driver} :
    recover (p :: rest) d = .next d' ↔ ∃ u, attempt p d = .next u ∧ recover rest u = .next d' := by
  rw [recover]
  cases attempt p d <;> simp

/-- Settles O60: by the attempts; after one that yields a byte no other is made. -/
theorem recoveryEndsOnlyWithAByte : Obligations.RecoveryEndsOnlyWithAByte := by
  intro probes d d' hmode h
  induction probes generalizing d with
  | nil => cases h; simp [hmode]
  | cons p rest ih =>
    obtain ⟨u, hu, hrest⟩ := recover_cons_eq_next.mp h
    obtain ⟨hnone, as, rfl⟩ | ⟨first, more, rfl, hnormal, -⟩ := attempt_cases hmode hu
    · have hp : ∀ first more, Probe.bytes first more ≠ p := fun first more => (hnone first more).symm
      simpa [hp] using ih (d.act as) hmode hrest
    · rw [recover_normal rest hnormal] at hrest
      cases hrest
      exact ⟨⟨fun _ => ⟨first, more, List.mem_cons_self⟩, fun _ => hnormal⟩,
        fun hrec => absurd (hnormal.symm.trans hrec) (by decide)⟩

end Sys2Proof.Machine
end

section
/-! The conditions (R160 to R165): the quiet ones, and what a short telemetry frame leaves of a step. -/

namespace Sys2Proof.Machine

/-- Settles O41: by the operation; only four have a condition, and of these only D_SHORT acts. -/
theorem quietConditionsHaveNoEffect : Obligations.QuietConditionsHaveNoEffect := by
  obtain ⟨hdiscard, -⟩ := discardOperation
  obtain ⟨hdrop, -⟩ := dropOperation
  obtain ⟨hrecord, -⟩ := discardRecordOperation
  intro i s x hx hne
  cases i
  case aDiscard c => exact hdiscard s c
  case dDrop short src typ => exact hdrop short src typ s
  case dDiscard => exact hrecord s
  case dShort => cases hx; exact absurd rfl hne
  all_goals cases hx

/-- A frame is too short exactly if it passes the filter and has fewer than 35 bytes (R114). -/
theorem frameFate_eq_short_iff {sink : Bool} {labels : Option (Label × Label)} {frame : List Byte} {n : Cnt} :
    frameFate sink labels frame = .short n ↔
      IsTelemetry frame ∧ frame.length < 35 ∧ n = BitVec.ofNat 9 frame.length := by
  constructor
  · intro h
    unfold frameFate at h
    split_ifs at h with hfilter hlt hsink
    · exact ⟨by simpa [IsTelemetry] using hfilter, hlt, by cases h; rfl⟩
    · split at h <;> cases h
  · rintro ⟨htelem, hlt, rfl⟩
    exact frameFate_of_short htelem hlt sink labels

/-- From `s` to `t` the fault was raised for the frame `f` of length `n` (R114, R165). -/
structure RaisesShort (s t : State) (f : List Byte) (n : Cnt) : Prop where
  output : t.output = s.output ++ [.frame f, .fault .shortTelemetryFrame n]
  marked : t.faultShort = true
  idle : t.st = .awaitingStart
  regs : t.regs = s.regs
  length : f.length = n.toNat
  atLeast : 6 ≤ n.toNat
  short : n.toNat < 35
  telemetry : IsTelemetry f

/-- From `s` to `t` no fault was raised: the mark is not newly set, and no `Fault` follows a `Frame`. -/
structure RaisesNothing (s t : State) : Prop where
  mark : t.faultShort = true → s.faultShort = true
  events : ∀ f n, t.output ≠ s.output ++ [.frame f, .fault .shortTelemetryFrame n]

theorem raisesNothing_of_output_eq {s t : State} (hmark : t.faultShort = true → s.faultShort = true)
    (hout : t.output = s.output) : RaisesNothing s t where
  mark := hmark
  events := fun f n h => by simp [hout] at h

/-- A completed frame that is too short raises the fault. -/
theorem State.raisesShort_completed {s : State} {frame : List Byte} {n : Cnt} (c : Byte) (h6 : 6 ≤ frame.length)
    (hfate : frameFate s.sinkEn s.labels? frame = .short n) : RaisesShort s (s.completed frame c) frame n := by
  obtain ⟨htelem, hlt, rfl⟩ := frameFate_eq_short_iff.mp hfate
  have hn : (BitVec.ofNat 9 frame.length).toNat = frame.length := by
    rw [BitVec.toNat_ofNat, Nat.mod_eq_of_lt (by omega)]
  exact
    { output := by rw [State.output_completed, hfate]; rfl
      marked := by simp only [State.completed, hfate]; rfl
      idle := rfl
      regs := by simp only [State.completed, hfate]; rfl
      length := hn.symm
      atLeast := by omega
      short := by omega
      telemetry := htelem }

/-- A completed frame with any other fate raises nothing. -/
theorem State.raisesNothing_completed {s : State} {frame : List Byte} (c : Byte)
    (hfate : ∀ n, frameFate s.sinkEn s.labels? frame ≠ .short n) : RaisesNothing s (s.completed frame c) where
  mark := by
    intro hmark
    change fateFault s.faultShort (frameFate s.sinkEn s.labels? frame) = true at hmark
    cases hf : frameFate s.sinkEn s.labels? frame with
    | short n => exact absurd hf (hfate n)
    | dropped | discarded | delivered | refused => rwa [hf] at hmark
  events := by
    intro f n h
    rw [State.output_completed, List.append_cancel_left_eq] at h
    cases hf : frameFate s.sinkEn s.labels? frame with
    | short n => exact absurd hf (hfate n)
    | dropped | discarded | delivered | refused => simp [hf, fateEvents] at h

/-- A byte raises the fault or raises nothing: only a completed frame, of six bytes at least, can raise it. -/
theorem StateInv.raises_byte {s t : State} {c : Byte} (h : StateInv s) (ht : execHByte c s = .next t) :
    (∃ f n, RaisesShort s t f n) ∨ RaisesNothing s t := by
  obtain ⟨data, hd, hlen⟩ := h.data_some
  obtain ⟨-, hbyte⟩ | ⟨-, -, hbyte⟩ | ⟨hst, hat, hbyte⟩ := h.byte_cases hd c <;> rw [hbyte] at ht
  · split at ht <;> cases ht <;> exact .inr (raisesNothing_of_output_eq id rfl)
  · cases ht
    exact .inr (raisesNothing_of_output_eq id rfl)
  · obtain ⟨-, rfl⟩ := completeStep_eq_next.mp ht
    have h5 := h.five_le_len hst hat
    by_cases hfate : ∃ n, frameFate s.sinkEn s.labels? (data ++ [c]) = .short n
    · obtain ⟨n, hn⟩ := hfate
      have h6 : 6 ≤ (data ++ [c]).length := by rw [List.length_append, List.length_singleton]; omega
      exact .inl ⟨_, n, State.raisesShort_completed c h6 hn⟩
    · exact .inr (State.raisesNothing_completed c (not_exists.mp hfate))

/-- A step raises the fault or raises nothing; every event but a byte raises nothing. Taking the event from `input`
changes nothing that `RaisesShort` or `RaisesNothing` speaks of. -/
theorem StateInv.raises_step {s t : State} (h : StateInv s) (ht : step s = .next t) :
    (∃ f n, RaisesShort s t f n) ∨ RaisesNothing s t := by
  obtain ⟨-, rfl⟩ | ⟨c, rest, -, hbyte⟩ | ⟨rest, -, rfl⟩ | ⟨rest, -, rfl⟩ | ⟨rest, a, b, -, rfl⟩ := step_cases ht
  · exact .inr (raisesNothing_of_output_eq id rfl)
  · obtain ⟨f, n, hraises⟩ | hnothing := (h.setInput rest).raises_byte hbyte
    · exact .inl ⟨f, n, { hraises with }⟩
    · exact .inr { hnothing with }
  · exact .inr (raisesNothing_of_output_eq (fun hmark => absurd hmark Bool.false_ne_true) rfl)
  · exact .inr (raisesNothing_of_output_eq id rfl)
  · exact .inr (raisesNothing_of_output_eq id rfl)

/-- Settles O40: a step either raises the fault, with all that comes with it, or neither marks nor emits it. -/
theorem faultMarksShortTelemetry : Obligations.FaultMarksShortTelemetry := by
  intro s t h ht
  obtain ⟨f, n, hraises⟩ | hnothing := h.raises_step ht
  · refine ⟨fun _ _ => ⟨f, n, hraises.output⟩, fun f' n' hout => ?_⟩
    have hevents := List.append_cancel_left (hraises.output.symm.trans hout)
    cases hevents
    obtain ⟨hsrc, htyp⟩ := hraises.telemetry
    exact ⟨hraises.marked, hraises.idle, hraises.regs, hraises.length, hraises.atLeast, hraises.short, hsrc, htyp⟩
  · refine ⟨fun hs ht' => absurd ?_ ht', fun f n hout => absurd hout (hnothing.events f n)⟩
    unfold NoFaultRecorded at hs ⊢
    exact Bool.eq_false_iff.mpr fun hmark => Bool.eq_false_iff.mp hs (hnothing.mark hmark)

end Sys2Proof.Machine
end

section
/-! The spacing of deliveries (R172): a record takes the sentinel and 35 bytes of a frame. -/

namespace Sys2Proof.Machine

/-- How many bytes the frame in progress has had, its sentinel included. -/
def bytesTaken (s : State) : Nat :=
  match s.st with
  | .awaitingStart => 0
  | .accumulatingFrame => s.len.toNat + 1

/-- A frame of fewer than 35 bytes delivers no record (R110, R171 c). -/
theorem notifiesOf_frame_of_short {sink : Bool} {labels : Option (Label × Label)} {frame : List Byte}
    (hlt : frame.length < 35) : notifiesOf (.frame frame :: fateEvents (frameFate sink labels frame)) = [] := by
  by_cases htelem : IsTelemetry frame
  · rw [frameFate_of_short htelem hlt]
    rfl
  · rw [frameFate_of_not_telemetry htelem]
    rfl

/-- A byte is at most one more of the frame in progress. -/
theorem StateInv.bytesTaken_byte {s t : State} {c : Byte} (h : StateInv s) (ht : execHByte c s = .next t) :
    bytesTaken t ≤ bytesTaken s + 1 := by
  obtain ⟨data, hd, -⟩ := h.data_some
  obtain ⟨hst, hbyte⟩ | ⟨hst, -, hbyte⟩ | ⟨-, -, hbyte⟩ := h.byte_cases hd c <;> rw [hbyte] at ht
  · split at ht <;> cases ht <;> simp [bytesTaken, hst]
  · cases ht
    simp only [bytesTaken, State.stored, hst, toNat_succ (h.assembler.i2 hst), le_refl]
  · obtain ⟨-, rfl⟩ := completeStep_eq_next.mp ht
    exact Nat.zero_le _

/-- Until 35 bytes are taken, the sentinel among them, the next byte delivers no record. -/
theorem StateInv.notifiesOf_byte {s t : State} {c : Byte} (h : StateInv s) (hfew : bytesTaken s < 35)
    (ht : execHByte c s = .next t) : notifiesOf (t.output.drop s.output.length) = [] := by
  obtain ⟨data, hd, hlen⟩ := h.data_some
  obtain ⟨-, hbyte⟩ | ⟨-, -, hbyte⟩ | ⟨hst, -, hbyte⟩ := h.byte_cases hd c <;> rw [hbyte] at ht
  · split at ht <;> cases ht <;> simp [notifiesOf]
  · cases ht
    simp [State.stored, notifiesOf]
  · obtain ⟨-, rfl⟩ := completeStep_eq_next.mp ht
    simp only [bytesTaken, hst] at hfew
    have hshort : (data ++ [c]).length < 35 := by rw [List.length_append, List.length_singleton]; omega
    rw [State.output_completed, List.drop_left, notifiesOf_frame_of_short hshort]

/-- A chunk delivers no record while it and the bytes taken before it are fewer than 36. -/
theorem StateInv.notifiesOf_feed {s t : State} {chunk : List Byte} (h : StateInv s)
    (hfew : bytesTaken s + chunk.length < 36) (ht : execHFeed chunk s = .next t) :
    ∃ events, t.output = s.output ++ events ∧ notifiesOf events = [] := by
  induction chunk generalizing s with
  | nil => cases ht; exact ⟨[], by simp, rfl⟩
  | cons c rest ih =>
    rw [List.length_cons] at hfew
    obtain ⟨u, hu, hrest⟩ := andThen_eq_next.mp ht
    obtain ⟨events, hout, -⟩ := execHByte_addsStepEvents hu
    have hnone := h.notifiesOf_byte (by omega) hu
    rw [hout, List.drop_left] at hnone
    have htaken := h.bytesTaken_byte hu
    obtain ⟨events', hout', hnone'⟩ := ih (h.byte hu) (by omega) hrest
    exact ⟨events ++ events', by rw [hout', hout, List.append_assoc], by rw [notifiesOf_append, hnone, hnone']; rfl⟩

/-- Settles O49: idle, no byte of a frame is taken yet. -/
theorem deliveriesAreSpaced : Obligations.DeliveriesAreSpaced := by
  intro s chunk t h hst hfew ht
  have hnone : bytesTaken s = 0 := by simp only [bytesTaken, hst]
  obtain ⟨events, hout, hnotifies⟩ := h.notifiesOf_feed (by omega) ht
  rw [hout, List.drop_left, hnotifies]

end Sys2Proof.Machine
end

section
/-! The blocked caller (R163): in recovery neither an invocation nor a command begins. -/

namespace Sys2Proof.Machine

theorem invoke_recovering {d : Driver} (h : d.mode = .recovering) (v : Invocation) : invoke v d = .next d := by
  simp only [invoke, h]

theorem sendCommand_recovering {d : Driver} (h : d.mode = .recovering) (on : Bool) (writing closing : Answer Unit) :
    sendCommand on writing closing d = d := by
  simp only [sendCommand, h]

/-- Settles O58: the two calls, by their test of the regime. -/
theorem recoveryBlocksTheCaller : Obligations.RecoveryBlocksTheCaller :=
  fun _ hmode => ⟨invoke_recovering hmode, sendCommand_recovering hmode⟩

end Sys2Proof.Machine
end

section
/-! The stop for want of labels (R196 b): the fate of a full telemetry frame with a consumer and a label missing. -/

namespace Sys2Proof.Machine

theorem State.labels?_eq_none_of_not_labelsSet {s : State} (h : ¬ LabelsSet s) : s.labels? = none := by
  cases hname : s.devName with
  | none => simp [State.labels?, hname]
  | some name =>
    cases hlabel : s.tempLabel with
    | none => simp [State.labels?, hname, hlabel]
    | some label => exact absurd ⟨by simp [hname], by simp [hlabel]⟩ h

/-- Past the filter, the length test and `sink_en`, only the labels decide. -/
theorem frameFate_refused_of_no_labels {frame : List Byte} (h : IsTelemetry frame) (h35 : 35 ≤ frame.length) :
    frameFate true none frame = .refused := by
  obtain ⟨hsrc, htyp⟩ := h
  simp [frameFate, hsrc, htyp, Nat.not_lt.mpr h35]

/-- Settles O34: the byte at the target is the completing step, and the fate of its frame is the refusal. -/
theorem noDeliveryWithoutLabels : Obligations.NoDeliveryWithoutLabels := by
  intro s c v data h hst hv hlast hd hsrc htyp h35 hsink hlabels
  obtain ⟨hop, hstep⟩ := h.execHByte_of_atTarget hst ⟨v, hv, hlast⟩ hd c
  have hlen : 35 ≤ (data ++ [c]).length := by
    rw [List.length_append, List.length_singleton, (Memory.slice_some hd).1]
    omega
  have hfate : frameFate s.sinkEn s.labels? (data ++ [c]) = .refused := by
    rw [hsink, State.labels?_eq_none_of_not_labelsSet hlabels]
    exact frameFate_refused_of_no_labels ⟨hsrc, htyp⟩ hlen
  exact (hop.trans hstep).trans (completeStep_of_refused hfate)

end Sys2Proof.Machine
end

section
/-! The two fields that are the model's own and not the block's, which H_RESET keeps (R141, log entry 11). -/

namespace Sys2Proof.Machine

/-- Settles O4: the operation loads `State.reset` and writes the two fields back. -/
theorem resetKeepsTheStream : Obligations.ResetKeepsTheStream := fun _ => rfl

end Sys2Proof.Machine
end
